-- ==== Sys2Proof/Word.lean ====
section
/-! DEFINITION. The fixed-width words of the block (00_scope R11): every value is unsigned. -/

namespace Sys2Proof

/-- The bits of a sampled word of the pin space (R8, R62), as an unsigned number (R11). Its width `W_SIN` is a parameter (R8),
so it is no width of the type: every read of a line and every sample keeps to the bits below it (`asserted`, `mask6`,
`mask4`). -/
abbrev Word := Nat

/-- A character of the text buffer, `u8` (R28). -/
abbrev Byte := BitVec 8

/-- A 7-bit character code (R90, R187). -/
abbrev Char7 := BitVec 7

end Sys2Proof
end

