-- ==== Sys2Proof/Config.lean ====
section
/-! DEFINITION. What an implementation fixes (00_scope R8), the names of the input lines, whose turn it
is to move, and the free values. The default values stand in Decode.lean. -/

namespace Sys2Proof

/-- `VARIANT` (R2): the two device families. The third family of R3 is unrepresentable. -/
inductive Variant where
  | v6
  | v4
  deriving DecidableEq, Repr

/-- `NUMBERING4` (R149): the end from which the V4 digits are numbered. -/
inductive Numbering4 where
  | lsdFirst
  | msdFirst
  deriving DecidableEq, Repr

/-- The input lines of the 6-digit family (R81). -/
inductive Line6 where
  | d0 | d1 | d2 | d3
  | s1 | s2 | s3 | s4 | s5 | s6
  | dp | mup | ovf | rng | nml
  deriving DecidableEq, Repr

/-- The input lines of the 4-digit family (R83). -/
inductive Line4 where
  | d0 | d1 | d2 | d3
  | dg1 | dg2 | dg3 | dg4
  | mup
  deriving DecidableEq, Repr

/-- An input line name (R31); the families' lines are kept apart (R107). -/
inductive Line where
  | v6 (l : Line6)
  | v4 (l : Line4)
  deriving DecidableEq, Repr

/-- A set of input line names: one bit per line (R31). Its operations stand in Machine/Ops.lean. -/
structure LineSet where
  bits : BitVec 24
  deriving DecidableEq, Repr, Inhabited

/-- `LAYOUT6` (R81): the bit of `sin` that carries each line. -/
structure Layout6 where
  d0 : Nat
  d1 : Nat
  d2 : Nat
  d3 : Nat
  s1 : Nat
  s2 : Nat
  s3 : Nat
  s4 : Nat
  s5 : Nat
  s6 : Nat
  dp : Nat
  mup : Nat
  ovf : Nat
  rng : Nat
  nml : Nat
  deriving DecidableEq, Repr

/-- `LAYOUT4` (R83). -/
structure Layout4 where
  d0 : Nat
  d1 : Nat
  d2 : Nat
  d3 : Nat
  dg1 : Nat
  dg2 : Nat
  dg3 : Nat
  dg4 : Nat
  mup : Nat
  deriving DecidableEq, Repr

/-- `UNIT6` (R184): the suffixes of the rows the source leaves open, by (`RNG`, `NML`). The row
(0, 1) is fixed to "ms" and so is no field. -/
structure UnitTable where
  rng0nml0 : List Char7
  rng1nml0 : List Char7
  rng1nml1 : List Char7
  deriving DecidableEq, Repr

/-- The configuration of R8: constant for the life of the device (R2, R72). `VARIANT` itself is the
form of the decoder state (log 1). -/
structure Config where
  numbering4 : Numbering4
  layout6 : Layout6
  layout4 : Layout4
  txbufLen6 : Nat
  txbufLen4 : Nat
  ovfGlyph : Char7
  unit6 : UnitTable
  oneBit : Fin 4
  polBit : Fin 4
  ovfBit : Fin 4
  wdtInTx : Bool
  /-- `IDLE` (D6). -/
  idle : BitVec 4
  /-- `G_IDLE` (D13): idle bit times inserted between two characters. -/
  gIdle : Nat
  /-- `W_SIN` (D2, D3): the width of a sampled word; no line above it is read. -/
  wSin : Nat
  /-- `W_READING` in V6 (D5): the width of the register that a capture writes. The model holds its low 24 bits, which are
  all that any rule reads. -/
  wReading6 : Nat
  /-- `W_READING` in V4 (D5), of which the model holds the low 16 bits. -/
  wReading4 : Nat
  deriving DecidableEq, Repr

/-- Who moves next (R70): the main thread, a level change of a line, the interrupt handler, the bit
clock, or the watchdog. -/
inductive Turn where
  | main
  | edge (l : Line)
  | irq
  | bitClock
  | watchdog
  deriving DecidableEq, Repr, Inhabited

/-- Free value (R62, U19): the n-th draw's sampled word, where the environment's list has ended. -/
opaque Config.freeSample : Nat → Word

/-- Free value (R70, R228): whose turn it is, where the environment's list has ended. -/
opaque Config.freeTurn : Nat → Turn

/-- Free value (R202, U15): the extra armed set `X`. -/
opaque Config.freeArmed : Nat → LineSet

/-- Free value (R182, U3): the character printed for a nibble above 9. -/
opaque Config.freeGlyph : Nat → Char7

end Sys2Proof
end

