-- ==== Sys2Proof/Syntax.lean ====
section
/-! DEFINITION. The operations of the block (00_scope R9): one constructor per row of
spec/opcode_table.json, and the class names of the decoder steps (30_encoding R100). -/

namespace Sys2Proof

/-- A sampled word of the 6-digit family, format `SIN6` (R81). -/
structure Sin6 where
  word : Word
  deriving DecidableEq, Repr

/-- A sampled word of the 4-digit family, format `SIN4` (R83); a type of its own (R107). -/
structure Sin4 where
  word : Word
  deriving DecidableEq, Repr

/-- The classes of a `DEC6.STEP` (R100); the number is that of captured digits before the step. -/
inductive Class6 where
  | idleHold
  | sync
  | frozen
  | abort
  | capture (n : Fin 6)
  | hold (n : Fin 6)
  deriving DecidableEq, Repr

/-- The classes of a `DEC4.STEP` (R100); the number is that of arrivals before the step. -/
inductive Class4 where
  | idleHold
  | sync
  | frozen
  | abort
  | capture (k : Fin 4)
  | hold (k : Fin 4)
  deriving DecidableEq, Repr

/-- The operations. -/
inductive Instr where
  -- V6 decoder classes (R122 to R127)
  | dec6IdleHold (sin : Sin6)
  | dec6Sync (sin : Sin6)
  | dec6Frozen (sin : Sin6)
  | dec6Abort (sin : Sin6)
  | dec6Capture1 (sin : Sin6)
  | dec6Capture2 (sin : Sin6)
  | dec6Capture3 (sin : Sin6)
  | dec6Capture4 (sin : Sin6)
  | dec6Capture5 (sin : Sin6)
  | dec6Capture6 (sin : Sin6)
  | dec6Hold1 (sin : Sin6)
  | dec6Hold2 (sin : Sin6)
  | dec6Hold3 (sin : Sin6)
  | dec6Hold4 (sin : Sin6)
  | dec6Hold5 (sin : Sin6)
  | dec6Hold6 (sin : Sin6)
  -- V4 decoder classes (R142 to R147)
  | dec4IdleHold (sin : Sin4)
  | dec4Sync (sin : Sin4)
  | dec4Frozen (sin : Sin4)
  | dec4Abort (sin : Sin4)
  | dec4Capture1 (sin : Sin4)
  | dec4Capture2 (sin : Sin4)
  | dec4Capture3 (sin : Sin4)
  | dec4Capture4 (sin : Sin4)
  | dec4Hold1 (sin : Sin4)
  | dec4Hold2 (sin : Sin4)
  | dec4Hold3 (sin : Sin4)
  | dec4Hold4 (sin : Sin4)
  -- decoder dispatch and reset (R128, R148, R121, R141)
  | dec6Step (sin : Sin6)
  | dec4Step (sin : Sin4)
  | dec6Reset
  | dec4Reset
  -- formatter (R181, R185)
  | fmt6 (reading : BitVec 24) (dp : BitVec 3) (aux : Sin6)
  | fmt4 (reading : BitVec 16)
  -- transmitter (R161 to R164)
  | txSend
  | txLoad
  | txTick
  | txDone
  -- sequencer (R201 to R210)
  | seqInit
  | seqArm
  | seqSleep
  | seqWake
  | seqSample
  | seqStep
  | seqAux
  | seqFormat
  | seqTransmit
  | seqRearm
  -- interrupts and watchdog (R226, R229, R233)
  | irqEdge (l : Line)
  | irqHandle
  | wdtReset
  deriving DecidableEq, Repr

end Sys2Proof
end

