-- ==== Sys2Proof/Decode.lean ====
section
/-! DEFINITION. The encodings (30_encoding.md): bit layouts and their defaults, the fields of a sampled
word, the operation map of R100, the decoder (total on every word and phase), the encoder, and the
rows of spec/opcode_table.json. -/

namespace Sys2Proof

/-! ### Default configuration (R8) -/

/-- `LAYOUT6` default (R81, D2). -/
def Layout6.default : Layout6 where
  d0 := 0
  d1 := 1
  d2 := 2
  d3 := 3
  s1 := 4
  s2 := 5
  s3 := 6
  s4 := 7
  s5 := 8
  s6 := 9
  dp := 10
  mup := 11
  ovf := 12
  rng := 13
  nml := 14

/-- `LAYOUT4` default (R83, D3). -/
def Layout4.default : Layout4 where
  d0 := 0
  d1 := 1
  d2 := 2
  d3 := 3
  dg1 := 4
  dg2 := 5
  dg3 := 6
  dg4 := 7
  mup := 8

/-- `UNIT6` default (R184, D22): "kHz", "MHz", "us". -/
def UnitTable.default : UnitTable where
  rng0nml0 := [0x6B, 0x48, 0x7A]
  rng1nml0 := [0x4D, 0x48, 0x7A]
  rng1nml1 := [0x75, 0x73]

/-- The default of every parameter the spec decides (R8). -/
def Config.default : Config where
  numbering4 := .lsdFirst
  layout6 := Layout6.default
  layout4 := Layout4.default
  txbufLen6 := 14
  txbufLen4 := 9
  ovfGlyph := 0x3E
  unit6 := UnitTable.default
  oneBit := 0
  polBit := 2
  ovfBit := 3
  wdtInTx := false
  idle := 15
  gIdle := 0
  wSin := 16
  wReading6 := 24
  wReading4 := 16

/-! ### Lines of a sampled word (R13, R81, R83) -/

/-- `bit(L)` in V6 (R81). -/
def Layout6.bit (lay : Layout6) : Line6 → Nat
  | .d0 => lay.d0
  | .d1 => lay.d1
  | .d2 => lay.d2
  | .d3 => lay.d3
  | .s1 => lay.s1
  | .s2 => lay.s2
  | .s3 => lay.s3
  | .s4 => lay.s4
  | .s5 => lay.s5
  | .s6 => lay.s6
  | .dp => lay.dp
  | .mup => lay.mup
  | .ovf => lay.ovf
  | .rng => lay.rng
  | .nml => lay.nml

/-- `bit(L)` in V4 (R83). -/
def Layout4.bit (lay : Layout4) : Line4 → Nat
  | .d0 => lay.d0
  | .d1 => lay.d1
  | .d2 => lay.d2
  | .d3 => lay.d3
  | .dg1 => lay.dg1
  | .dg2 => lay.dg2
  | .dg3 => lay.dg3
  | .dg4 => lay.dg4
  | .mup => lay.mup

/-- Every line of the 6-digit family. -/
def Line6.all : List Line6 :=
  [.d0, .d1, .d2, .d3, .s1, .s2, .s3, .s4, .s5, .s6, .dp, .mup, .ovf, .rng, .nml]

/-- Every line of the 4-digit family. -/
def Line4.all : List Line4 := [.d0, .d1, .d2, .d3, .dg1, .dg2, .dg3, .dg4, .mup]

/-- `asserted(L, s)` (R13): the line's bit of the `W_SIN`-bit sampled word is 1. -/
def Sin6.asserted (c : Config) (sin : Sin6) (l : Line6) : Bool :=
  decide (c.layout6.bit l < c.wSin) && sin.word.testBit (c.layout6.bit l)

/-- `asserted(L, s)` (R13). -/
def Sin4.asserted (c : Config) (sin : Sin4) (l : Line4) : Bool :=
  decide (c.layout4.bit l < c.wSin) && sin.word.testBit (c.layout4.bit l)

/-- The bits of a `W_SIN`-bit V6 sample that carry a line; the others are reserved (R81, R104). -/
def Config.mask6 (c : Config) : Word :=
  Line6.all.foldr (fun l m => (if c.layout6.bit l < c.wSin then 2 ^ c.layout6.bit l else 0) ||| m) 0

/-- The bits of a `W_SIN`-bit V4 sample that carry a line; the others are reserved (R83, R104). -/
def Config.mask4 (c : Config) : Word :=
  Line4.all.foldr (fun l m => (if c.layout4.bit l < c.wSin then 2 ^ c.layout4.bit l else 0) ||| m) 0

/-- R104: the same word with the reserved bits cleared. -/
def Sin6.clean (c : Config) (sin : Sin6) : Sin6 := ⟨sin.word &&& c.mask6⟩

/-- R104: the same word with the reserved bits cleared. -/
def Sin4.clean (c : Config) (sin : Sin4) : Sin4 := ⟨sin.word &&& c.mask4⟩

/-! ### The operation map (R100) -/

/-- The strobe expected after `n` captured digits, `S(n+1)` (R100). -/
def strobe6 : Fin 6 → Line6
  | 0 => .s1
  | 1 => .s2
  | 2 => .s3
  | 3 => .s4
  | 4 => .s5
  | 5 => .s6

/-- The strobe expected after `k` arrivals, `DG(ARR4[k+1])` with `ARR4` = (1, 3, 2, 4) (R149). -/
def strobe4 : Fin 4 → Line4
  | 0 => .dg1
  | 1 => .dg3
  | 2 => .dg2
  | 3 => .dg4

/-- The class a `DEC6.STEP` performs (R100, R128); none in the reserved phases, those above 6
but `IDLE` (R105). -/
def classify6 (c : Config) (phase : BitVec 4) (sin : Sin6) : Option Class6 :=
  if phase = c.idle then
    if sin.asserted c .mup then some .idleHold else some .sync
  else if phase = 6 then some .frozen
  else if h : phase.toNat < 6 then
    if sin.asserted c .mup then some .abort
    else if sin.asserted c (strobe6 ⟨phase.toNat, h⟩) then some (.capture ⟨phase.toNat, h⟩)
    else some (.hold ⟨phase.toNat, h⟩)
  else none

/-- The class a `DEC4.STEP` performs (R100, R148); none in the reserved phases, those above 4
but `IDLE` (R105). -/
def classify4 (c : Config) (phase : BitVec 4) (sin : Sin4) : Option Class4 :=
  if phase = c.idle then
    if sin.asserted c .mup then some .idleHold else some .sync
  else if phase = 4 then some .frozen
  else if h : phase.toNat < 4 then
    if sin.asserted c .mup then some .abort
    else if sin.asserted c (strobe4 ⟨phase.toNat, h⟩) then some (.capture ⟨phase.toNat, h⟩)
    else some (.hold ⟨phase.toNat, h⟩)
  else none

/-- The operation of a class on a word: the rows of the table. -/
def Class6.instr : Class6 → Sin6 → Instr
  | .idleHold, sin => .dec6IdleHold sin
  | .sync, sin => .dec6Sync sin
  | .frozen, sin => .dec6Frozen sin
  | .abort, sin => .dec6Abort sin
  | .capture 0, sin => .dec6Capture1 sin
  | .capture 1, sin => .dec6Capture2 sin
  | .capture 2, sin => .dec6Capture3 sin
  | .capture 3, sin => .dec6Capture4 sin
  | .capture 4, sin => .dec6Capture5 sin
  | .capture 5, sin => .dec6Capture6 sin
  | .hold 0, sin => .dec6Hold1 sin
  | .hold 1, sin => .dec6Hold2 sin
  | .hold 2, sin => .dec6Hold3 sin
  | .hold 3, sin => .dec6Hold4 sin
  | .hold 4, sin => .dec6Hold5 sin
  | .hold 5, sin => .dec6Hold6 sin

/-- The operation of a class on a word: the rows of the table. -/
def Class4.instr : Class4 → Sin4 → Instr
  | .idleHold, sin => .dec4IdleHold sin
  | .sync, sin => .dec4Sync sin
  | .frozen, sin => .dec4Frozen sin
  | .abort, sin => .dec4Abort sin
  | .capture 0, sin => .dec4Capture1 sin
  | .capture 1, sin => .dec4Capture2 sin
  | .capture 2, sin => .dec4Capture3 sin
  | .capture 3, sin => .dec4Capture4 sin
  | .hold 0, sin => .dec4Hold1 sin
  | .hold 1, sin => .dec4Hold2 sin
  | .hold 2, sin => .dec4Hold3 sin
  | .hold 3, sin => .dec4Hold4 sin

/-! ### Decoder and encoder -/

/-- Why a word decodes to no operation. -/
inductive DecodeError where
  /-- `dec.next_digit` is reserved (R105). -/
  | reservedPhase
  deriving DecidableEq, Repr

/-- The V6 operation a word stands for in a phase (R100), its reserved bits cleared (R104). -/
def decode6 (c : Config) (phase : BitVec 4) (w : Word) : Except DecodeError Instr :=
  match classify6 c phase ⟨w⟩ with
  | some k => .ok (k.instr (Sin6.clean c ⟨w⟩))
  | none => .error .reservedPhase

/-- The V4 operation a word stands for in a phase (R100), its reserved bits cleared (R104). -/
def decode4 (c : Config) (phase : BitVec 4) (w : Word) : Except DecodeError Instr :=
  match classify4 c phase ⟨w⟩ with
  | some k => .ok (k.instr (Sin4.clean c ⟨w⟩))
  | none => .error .reservedPhase

/-- The decoder: `VARIANT` is the only mode that changes decoding (R107). -/
def decode (c : Config) (v : Variant) (phase : BitVec 4) (w : Word) : Except DecodeError Instr :=
  match v with
  | .v6 => decode6 c phase w
  | .v4 => decode4 c phase w

/-- The word of an operation. Only the decoder classes have one, the sampled word itself (R9); every
other operation is selected by an event (R101). -/
def encode : Instr → Option Word
  | .dec6IdleHold sin => some sin.word
  | .dec6Sync sin => some sin.word
  | .dec6Frozen sin => some sin.word
  | .dec6Abort sin => some sin.word
  | .dec6Capture1 sin => some sin.word
  | .dec6Capture2 sin => some sin.word
  | .dec6Capture3 sin => some sin.word
  | .dec6Capture4 sin => some sin.word
  | .dec6Capture5 sin => some sin.word
  | .dec6Capture6 sin => some sin.word
  | .dec6Hold1 sin => some sin.word
  | .dec6Hold2 sin => some sin.word
  | .dec6Hold3 sin => some sin.word
  | .dec6Hold4 sin => some sin.word
  | .dec6Hold5 sin => some sin.word
  | .dec6Hold6 sin => some sin.word
  | .dec4IdleHold sin => some sin.word
  | .dec4Sync sin => some sin.word
  | .dec4Frozen sin => some sin.word
  | .dec4Abort sin => some sin.word
  | .dec4Capture1 sin => some sin.word
  | .dec4Capture2 sin => some sin.word
  | .dec4Capture3 sin => some sin.word
  | .dec4Capture4 sin => some sin.word
  | .dec4Hold1 sin => some sin.word
  | .dec4Hold2 sin => some sin.word
  | .dec4Hold3 sin => some sin.word
  | .dec4Hold4 sin => some sin.word
  | .dec6Step _ => none
  | .dec4Step _ => none
  | .dec6Reset => none
  | .dec4Reset => none
  | .fmt6 _ _ _ => none
  | .fmt4 _ => none
  | .txSend => none
  | .txLoad => none
  | .txTick => none
  | .txDone => none
  | .seqInit => none
  | .seqArm => none
  | .seqSleep => none
  | .seqWake => none
  | .seqSample => none
  | .seqStep => none
  | .seqAux => none
  | .seqFormat => none
  | .seqTransmit => none
  | .seqRearm => none
  | .irqEdge _ => none
  | .irqHandle => none
  | .wdtReset => none

/-- A row of spec/opcode_table.json with an encoding: the variant and phases that select it (its
`phase` condition) and its mask and match on the sampled word, under the default layouts. -/
structure Row where
  variant : Variant
  phases : List (BitVec 4)
  mask : Word
  pattern : Word
  deriving DecidableEq, Repr

/-- The table's row of an operation; none for the rows of format `EVENT` (R101). The table writes the phase `IDLE` by its
default 15; it is a parameter (R8). -/
def tableRow (idle : BitVec 4) : Instr → Option Row
  | .dec6IdleHold _ => some ⟨.v6, [idle], 0x0800, 0x0800⟩
  | .dec6Sync _ => some ⟨.v6, [idle], 0x0800, 0x0000⟩
  | .dec6Frozen _ => some ⟨.v6, [6], 0x0000, 0x0000⟩
  | .dec6Abort _ => some ⟨.v6, [0, 1, 2, 3, 4, 5], 0x0800, 0x0800⟩
  | .dec6Capture1 _ => some ⟨.v6, [0], 0x0810, 0x0010⟩
  | .dec6Capture2 _ => some ⟨.v6, [1], 0x0820, 0x0020⟩
  | .dec6Capture3 _ => some ⟨.v6, [2], 0x0840, 0x0040⟩
  | .dec6Capture4 _ => some ⟨.v6, [3], 0x0880, 0x0080⟩
  | .dec6Capture5 _ => some ⟨.v6, [4], 0x0900, 0x0100⟩
  | .dec6Capture6 _ => some ⟨.v6, [5], 0x0A00, 0x0200⟩
  | .dec6Hold1 _ => some ⟨.v6, [0], 0x0810, 0x0000⟩
  | .dec6Hold2 _ => some ⟨.v6, [1], 0x0820, 0x0000⟩
  | .dec6Hold3 _ => some ⟨.v6, [2], 0x0840, 0x0000⟩
  | .dec6Hold4 _ => some ⟨.v6, [3], 0x0880, 0x0000⟩
  | .dec6Hold5 _ => some ⟨.v6, [4], 0x0900, 0x0000⟩
  | .dec6Hold6 _ => some ⟨.v6, [5], 0x0A00, 0x0000⟩
  | .dec4IdleHold _ => some ⟨.v4, [idle], 0x0100, 0x0100⟩
  | .dec4Sync _ => some ⟨.v4, [idle], 0x0100, 0x0000⟩
  | .dec4Frozen _ => some ⟨.v4, [4], 0x0000, 0x0000⟩
  | .dec4Abort _ => some ⟨.v4, [0, 1, 2, 3], 0x0100, 0x0100⟩
  | .dec4Capture1 _ => some ⟨.v4, [0], 0x0110, 0x0010⟩
  | .dec4Capture2 _ => some ⟨.v4, [1], 0x0140, 0x0040⟩
  | .dec4Capture3 _ => some ⟨.v4, [2], 0x0120, 0x0020⟩
  | .dec4Capture4 _ => some ⟨.v4, [3], 0x0180, 0x0080⟩
  | .dec4Hold1 _ => some ⟨.v4, [0], 0x0110, 0x0000⟩
  | .dec4Hold2 _ => some ⟨.v4, [1], 0x0140, 0x0000⟩
  | .dec4Hold3 _ => some ⟨.v4, [2], 0x0120, 0x0000⟩
  | .dec4Hold4 _ => some ⟨.v4, [3], 0x0180, 0x0000⟩
  | .dec6Step _ => none
  | .dec4Step _ => none
  | .dec6Reset => none
  | .dec4Reset => none
  | .fmt6 _ _ _ => none
  | .fmt4 _ => none
  | .txSend => none
  | .txLoad => none
  | .txTick => none
  | .txDone => none
  | .seqInit => none
  | .seqArm => none
  | .seqSleep => none
  | .seqWake => none
  | .seqSample => none
  | .seqStep => none
  | .seqAux => none
  | .seqFormat => none
  | .seqTransmit => none
  | .seqRearm => none
  | .irqEdge _ => none
  | .irqHandle => none
  | .wdtReset => none

/-! ### Table words without a phase (log 19) -/

/-- The phase a V6 table word is read in: the one that expects its first asserted strobe; `Idle` for
a word with `MUP` or with no strobe. DESIGN CHOICE (log 19): the table gives a word no phase. -/
def tablePhase6 (c : Config) (sin : Sin6) : BitVec 4 :=
  if sin.asserted c .mup then c.idle
  else if sin.asserted c .s1 then 0
  else if sin.asserted c .s2 then 1
  else if sin.asserted c .s3 then 2
  else if sin.asserted c .s4 then 3
  else if sin.asserted c .s5 then 4
  else if sin.asserted c .s6 then 5
  else c.idle

/-- The phase a V4 table word is read in, as `tablePhase6`, in the order of arrival. -/
def tablePhase4 (c : Config) (sin : Sin4) : BitVec 4 :=
  if sin.asserted c .mup then c.idle
  else if sin.asserted c .dg1 then 0
  else if sin.asserted c .dg3 then 1
  else if sin.asserted c .dg2 then 2
  else if sin.asserted c .dg4 then 3
  else c.idle

/-- The operation the decoder reads from a table word: a `SIN6` word under the default configuration
in the phase `tablePhase6` gives it. A word wider than `W_SIN` is none. -/
def decodeTableWord (nbits w : Nat) : Option Instr :=
  if nbits ≤ Config.default.wSin ∧ w < 2 ^ Config.default.wSin then
    let sin : Sin6 := ⟨w⟩
    match decode6 Config.default (tablePhase6 Config.default sin) sin.word with
    | .ok i => some i
    | .error _ => none
  else none

end Sys2Proof
end

