-- ==== Sys2Proof/Machine/State.lean ====
section
/-! DEFINITION. The state of the block (10_state.md), its value after reset, and the reasons a step can
stop. -/

namespace Sys2Proof.Machine

/-- The Decoder State of the 6-digit family (R21, R22, R23). -/
structure Dec6 where
  reading : BitVec 24
  dp : BitVec 3
  nextDigit : BitVec 4
  deriving DecidableEq, Repr

/-- The Decoder State of the 4-digit family (R21, R22, R23). -/
structure Dec4 where
  reading : BitVec 16
  dp : BitVec 3
  nextDigit : BitVec 4
  deriving DecidableEq, Repr

/-- The Decoder State. Which form it has is `VARIANT` (R2, R107; log 1). -/
inductive Decoder where
  | v6 (d : Dec6)
  | v4 (d : Dec4)
  deriving DecidableEq, Repr

/-- The transmitter state (R26). -/
structure Tx where
  busy : Bool
  sr : BitVec 9
  cnt : BitVec 4
  idx : BitVec 4
  deriving DecidableEq, Repr

/-- The sequencer's place in its loop (R200): the action it takes next. -/
inductive SeqPos where
  | init | arm | sleep | wake | sample | step | aux | format | transmit | rearm
  deriving DecidableEq, Repr

/-- The source's sequencer states (R29): a view of the decoder phase. -/
inductive SeqState where
  | armedIdle | capturing | fmtTx
  deriving DecidableEq, Repr

/-- The sequencer: its place, `seq.asleep` (R29), and the values its loop carries: `s` (R205), `aux` and
`result` = (reading, dp) (R207). -/
structure Sequencer where
  pos : SeqPos
  asleep : Bool
  sample : Word
  aux : Word
  reading : BitVec 24
  dp : BitVec 3
  deriving DecidableEq, Repr

/-- The environment's part (R35, R70), the model's own field: who moves next, what the coming samples
are, and how many free values have been drawn (logs 2, 3). -/
structure Env where
  turns : List Turn
  samples : List Word
  draws : Nat
  deriving DecidableEq, Repr

/-- The text buffer (R28, R61): its written characters, addresses strictly rising (`Memory.wf`). An
index that is not listed has no value (U17, log 6). -/
abbrev Memory := List Host.Cell

/-- The whole state (R20). `cfg` is the configuration (R33), which nothing writes; `wire` is the wire
trace (R27, R163), oldest level first; `gap` is the number of `G_IDLE` bit times still to pass before the next character
(R8, D13; the model's own field, log 30). -/
structure State where
  cfg : Config
  dec : Decoder
  tx : Tx
  txd : Bool
  gap : Nat
  wire : List Bool
  txbuf : Memory
  seq : Sequencer
  awake : Bool
  ie : LineSet
  ifg : LineSet
  wdtArmed : Bool
  env : Env
  deriving DecidableEq, Repr

/-- Why the machine stops with a fault. -/
inductive Fault where
  /-- `TX.LOAD`, alone or inside `TX.SEND` or `SEQ.TRANSMIT`, reads a character nothing has written
  (U17). Safe: the hardware sends some value (log 6). -/
  | unwrittenChar
  deriving DecidableEq, Repr

/-- Why an operation has no meaning in a state. Each stops the machine where the hardware has no such
operation or the rules give none, so each is safe. -/
inductive Refusal where
  /-- An operation without a meaning; raised by exec alone. Safe. -/
  | notModelled (mnemonic : String)
  /-- `TX.SEND` with `tx.busy` = 1 (R161, R239), whatever the buffer holds (log 28). Safe. -/
  | txBusy
  /-- `TX.SEND` with no 0x00 in `txbuf`, or `TX.LOAD` with `tx.idx` = `TXBUF_LEN` (R168, R239). Safe. -/
  | noTerminator
  /-- A decoder step, or `SEQ.ARM`, with a reserved `dec.next_digit` (R105, R239). Safe. -/
  | reservedPhase
  /-- An operation of the other device family (R107, log 9). Safe. -/
  | otherVariant
  /-- A decoder class the dispatch does not select here (R100, log 10). Safe. -/
  | notSelected
  /-- `TX.TICK` or `WDT.RESET` where R163 or R233 do not enable it (log 11). Safe. -/
  | notEnabled
  /-- `FMT6` with a decimal index above 6 (R181, log 13). Safe. -/
  | illegalDp
  /-- An access to `txbuf` at an index of `TXBUF_LEN` or more (R61, log 14). Safe. -/
  | outOfBuffer
  deriving DecidableEq, Repr

/-- The Decoder State after reset (R36). -/
def Decoder.reset (c : Config) : Variant → Decoder
  | .v6 => .v6 ⟨0, 0, c.idle⟩
  | .v4 => .v4 ⟨0, 0, c.idle⟩

/-- The state after reset (R36, R251) of a device of a family and configuration. The sequencer's `s`,
`aux` and `result` have no reset value in the spec: DESIGN CHOICE 0 (log 7). -/
def State.resetOf (v : Variant) (c : Config) : State where
  cfg := c
  dec := Decoder.reset c v
  tx := ⟨false, 0x1FF, 0, 0⟩
  txd := true
  gap := 0
  wire := []
  txbuf := []
  seq := ⟨.init, false, 0, 0, 0, 0⟩
  awake := false
  ie := ⟨0⟩
  ifg := ⟨0⟩
  wdtArmed := false
  env := ⟨[], [], 0⟩

/-- The machine right after reset: a V6 device (DESIGN CHOICE, log 1) in the default configuration. -/
def State.reset : State := State.resetOf .v6 Config.default

end Sys2Proof.Machine
end

