-- ==== Sys2Proof/Machine/Flags.lean ====
section
/-! DEFINITION. The one-bit status values (10_state R34), the views of the decoder phase (R29, R211), the
watchdog's enabling condition (R233) and the V4 flag nibble (R150, R185). -/

namespace Sys2Proof.Machine

/-- `VARIANT` (R2), read off the form of the decoder state. -/
def State.variant (s : State) : Variant :=
  match s.dec with
  | .v6 _ => .v6
  | .v4 _ => .v4

/-- `dec.next_digit` (R23). -/
def Decoder.nextDigit : Decoder → BitVec 4
  | .v6 d => d.nextDigit
  | .v4 d => d.nextDigit

/-- The completion flag, `dec.next_digit = N` (R34). -/
def Decoder.complete : Decoder → Bool
  | .v6 d => d.nextDigit == 6
  | .v4 d => d.nextDigit == 4

/-- A capturing phase, 0 to N-1 (R23). -/
def Decoder.capturing : Decoder → Bool
  | .v6 d => decide (d.nextDigit.toNat < 6)
  | .v4 d => decide (d.nextDigit.toNat < 4)

/-- `seq.state` (R29, R211); none in the reserved phases. -/
def State.seqState (s : State) : Option SeqState :=
  if s.dec.nextDigit = s.cfg.idle then some .armedIdle
  else if s.dec.capturing then some .capturing
  else if s.dec.complete then some .fmtTx
  else none

/-- `WatchdogReset` is enabled while armed in `ARMED_IDLE` and `CAPTURING`, and in `FMT_TX` only if
`WDT_IN_TX` (R233). -/
def State.wdtEnabled (s : State) : Bool :=
  s.wdtArmed &&
  match s.seqState with
  | some .armedIdle => true
  | some .capturing => true
  | some .fmtTx => s.cfg.wdtInTx
  | none => false

/-- The flag nibble of a complete V4 reading, bits 15 to 12 (R87, R150). -/
def flagNibble (reading : BitVec 16) : BitVec 4 := reading.extractLsb' 12 4

/-- The instrument's overflow flag in V4 (R185). -/
def overflow4 (c : Config) (reading : BitVec 16) : Bool := (flagNibble reading).getLsbD c.ovfBit.val

/-- The instrument's polarity flag in V4 (R185). -/
def polarity4 (c : Config) (reading : BitVec 16) : Bool := (flagNibble reading).getLsbD c.polBit.val

/-- The instrument's half digit in V4 (R185). -/
def halfDigit4 (c : Config) (reading : BitVec 16) : Bool := (flagNibble reading).getLsbD c.oneBit.val

end Sys2Proof.Machine
end

