-- ==== Sys2Proof/Machine/Operands.lean ====
section
/-! DEFINITION. The operands of the operations: the digit and decimal index of a capture (30 R85, R88),
the place of a V4 nibble (41 R149), the nibbles of a reading (R86, R87), and the lines that are relevant to a
phase (44 R202). -/

namespace Sys2Proof.Machine

/-- The digit of a capture, `D3`..`D0` with weights 8, 4, 2, 1 (R85, R64). -/
def digit6 (c : Config) (sin : Sin6) : BitVec 4 :=
  BitVec.ofBool (sin.asserted c .d3) ++ BitVec.ofBool (sin.asserted c .d2) ++
    BitVec.ofBool (sin.asserted c .d1) ++ BitVec.ofBool (sin.asserted c .d0)

/-- The nibble of a capture, `D3`..`D0` with weights 8, 4, 2, 1 (R85, R64). -/
def digit4 (c : Config) (sin : Sin4) : BitVec 4 :=
  BitVec.ofBool (sin.asserted c .d3) ++ BitVec.ofBool (sin.asserted c .d2) ++
    BitVec.ofBool (sin.asserted c .d1) ++ BitVec.ofBool (sin.asserted c .d0)

/-- The decimal index recorded with the digit after `n` captured ones: `7 - (n+1)` (R88, R125). -/
def decimalIndex (n : Fin 6) : BitVec 3 := BitVec.ofNat 3 (6 - n.val)

/-- `ARR4` = (1, 3, 2, 4): the number of the strobe that arrives after `k` others (R149). -/
def arr4 : Fin 4 → Nat
  | 0 => 1
  | 1 => 3
  | 2 => 2
  | 3 => 4

/-- `pos(m)`, the nibble of the reading that strobe `DGm` fills (R149). -/
def pos4 (num : Numbering4) (m : Nat) : Nat :=
  match num with
  | .lsdFirst => m - 1
  | .msdFirst => 4 - m

/-- The nibble that the arrival after `k` others fills (R149). -/
def fill4 (num : Numbering4) (k : Fin 4) : Nat := pos4 num (arr4 k)

/-- Nibble `j` of a word, bits `4j+3` to `4j` (R11). -/
def nibble {w : Nat} (v : BitVec w) (j : Nat) : BitVec 4 := v.extractLsb' (4 * j) 4

/-- `v` with nibble `j` replaced (R145). -/
def setNibble (v : BitVec 16) (j : Nat) (x : BitVec 4) : BitVec 16 :=
  (v &&& ~~~((15 : BitVec 16) <<< (4 * j))) ||| (x.setWidth 16 <<< (4 * j))

/-- What a register of `W_READING` bits keeps of a value (R8, R21): its low bits. -/
def inWidth {n : Nat} (width : Nat) (v : BitVec n) : BitVec n := (v.setWidth width).setWidth n

/-- The place of a line in a `LineSet`. -/
def lineIndex : Line → Nat
  | .v6 .d0 => 0
  | .v6 .d1 => 1
  | .v6 .d2 => 2
  | .v6 .d3 => 3
  | .v6 .s1 => 4
  | .v6 .s2 => 5
  | .v6 .s3 => 6
  | .v6 .s4 => 7
  | .v6 .s5 => 8
  | .v6 .s6 => 9
  | .v6 .dp => 10
  | .v6 .mup => 11
  | .v6 .ovf => 12
  | .v6 .rng => 13
  | .v6 .nml => 14
  | .v4 .d0 => 15
  | .v4 .d1 => 16
  | .v4 .d2 => 17
  | .v4 .d3 => 18
  | .v4 .dg1 => 19
  | .v4 .dg2 => 20
  | .v4 .dg3 => 21
  | .v4 .dg4 => 22
  | .v4 .mup => 23

/-- Membership (R31). -/
def lineIn (l : Line) (a : LineSet) : Bool := a.bits.getLsbD (lineIndex l)

/-- The empty set. -/
def noLines : LineSet := ⟨0⟩

/-- `a ∪ b`. -/
def lineUnion (a b : LineSet) : LineSet := ⟨a.bits ||| b.bits⟩

/-- `a ∩ b`. -/
def lineInter (a b : LineSet) : LineSet := ⟨a.bits &&& b.bits⟩

/-- The set of the lines of a list. -/
def lineSet (ls : List Line) : LineSet :=
  ⟨ls.foldr (fun l m => BitVec.twoPow 24 (lineIndex l) ||| m) 0⟩

/-- The lines that may be interrupt sources: every line of the family. The spec says "at least `MUP` and
every digit strobe" (R225); taking more only adds wakes (log 4). -/
def capableLines : Variant → LineSet
  | .v6 => lineSet (Line6.all.map .v6)
  | .v4 => lineSet (Line4.all.map .v4)

/-- `relevant(dec.next_digit)` (R202): `MUP`, and the expected strobe in a capturing phase. R202 gives none
for a complete decoder, where `SEQ.ARM` arms the free set alone (log 12). None in a reserved phase (R105). -/
def relevant (c : Config) : Decoder → Option LineSet
  | .v6 d =>
    if d.nextDigit = c.idle then some (lineSet [.v6 .mup])
    else if h : d.nextDigit.toNat < 6 then some (lineSet [.v6 .mup, .v6 (strobe6 ⟨d.nextDigit.toNat, h⟩)])
    else if d.nextDigit = 6 then some noLines
    else none
  | .v4 d =>
    if d.nextDigit = c.idle then some (lineSet [.v4 .mup])
    else if h : d.nextDigit.toNat < 4 then some (lineSet [.v4 .mup, .v4 (strobe4 ⟨d.nextDigit.toNat, h⟩)])
    else if d.nextDigit = 4 then some noLines
    else none

end Sys2Proof.Machine
end

