-- ==== Sys2Proof/Machine/Ops.lean ====
section
/-! DEFINITION. The operations the meanings share: the text buffer (20_memory.md), free draws, the guard
of a decoder class, the transmitter's parts, taking an interrupt and returning from it, and the full
reset. -/

namespace Sys2Proof.Machine

/-- The outcome of an operation. -/
abbrev Out := Host.Outcome State Fault Refusal

/-- Follow a next state by a further change; a stop stays a stop. -/
def onNext (o : Out) (f : State → State) : Out :=
  match o with
  | .next s => .next (f s)
  | .fault r => .fault r
  | .refused r => .refused r

/-! ### The text buffer (R28, R61) -/

/-- The written character at an index; none if nothing has written it (U17, log 6). -/
def Memory.read : Memory → Nat → Option Byte
  | [], _ => none
  | (a, v) :: m, i => if a = i then some v else Memory.read m i

/-- The buffer with a character written at an index; addresses stay strictly rising. -/
def Memory.write : Memory → Nat → Byte → Memory
  | [], i, c => [(i, c)]
  | (a, v) :: m, i, c =>
    if i < a then (i, c) :: (a, v) :: m
    else if i = a then (i, c) :: m
    else (a, v) :: Memory.write m i c

/-- Addresses strictly rising: the canonical form. -/
def Memory.wf (m : Memory) : Bool := decide (m.Pairwise (fun x y => x.1 < y.1))

/-- `TXBUF_LEN` (R8, R186). -/
def State.txbufLen (s : State) : Nat :=
  match s.dec with
  | .v6 _ => s.cfg.txbufLen6
  | .v4 _ => s.cfg.txbufLen4

/-- `MemRead(i, 1)` (R61): no value outside the buffer (D30), none where nothing has written (log 6). -/
def State.memRead (s : State) (i : Nat) (k : Byte → Out) : Out :=
  if i < s.txbufLen then
    match s.txbuf.read i with
    | some c => k c
    | none => .fault .unwrittenChar
  else .refused .outOfBuffer

/-- `MemWrite(i, 1, v)` of successive characters from index `i` (R61); none past the buffer (D30). -/
def writeText (len : Nat) : Nat → List Byte → Memory → Option Memory
  | _, [], m => some m
  | i, c :: cs, m => if i < len then writeText len (i + 1) cs (m.write i c) else none

/-- `txbuf` filled with a text. The buffer is allocated anew for each cycle (R28), so what the text does
not cover has no value (R181, log 6). -/
def State.fillTxbuf (s : State) (text : List Byte) : Out :=
  match writeText s.txbufLen 0 text [] with
  | some m => .next { s with txbuf := m }
  | none => .refused .outOfBuffer

/-- `txbuf` holds a 0x00 below `TXBUF_LEN` (R168). -/
def State.hasTerminator (s : State) : Bool :=
  (List.range s.txbufLen).any (fun i => s.txbuf.read i == some 0)

/-! ### Free draws (R14) -/

/-- The bits of a sample that carry a line in this device (R62). -/
def State.sinMask (s : State) : Word :=
  match s.dec with
  | .v6 _ => s.cfg.mask6
  | .v4 _ => s.cfg.mask4

/-- What `Sample()` returns (R62): the environment's word, reserved bits 0 (log 2). -/
def State.sampleWord (s : State) : Word :=
  (match s.env.samples with
   | w :: _ => w
   | [] => Config.freeSample s.env.draws) &&& s.sinMask

/-- The state after a `Sample()`: a read changes nothing but the draw it consumes (R62, R68). -/
def State.afterSample (s : State) : State :=
  match s.env.samples with
  | _ :: ws => { s with env := { s.env with samples := ws } }
  | [] => { s with env := { s.env with draws := s.env.draws + 1 } }

/-- The state after `n` further free values have been drawn. -/
def State.drawn (s : State) (n : Nat) : State :=
  { s with env := { s.env with draws := s.env.draws + n } }

/-! ### Sequencer -/

/-- The sequencer's next action. -/
def State.goTo (s : State) (p : SeqPos) : State := { s with seq := { s.seq with pos := p } }

/-! ### Decoder classes (R100) -/

/-- A V6 class operation: it has its effect where the dispatch selects it (log 10). -/
def onClass6 (c : Class6) (sin : Sin6) (s : State) (f : Dec6 → Dec6) : Out :=
  match s.dec with
  | .v4 _ => .refused .otherVariant
  | .v6 d =>
    match classify6 s.cfg d.nextDigit sin with
    | none => .refused .reservedPhase
    | some c' => if c' = c then .next { s with dec := .v6 (f d) } else .refused .notSelected

/-- A V4 class operation: it has its effect where the dispatch selects it (log 10). -/
def onClass4 (c : Class4) (sin : Sin4) (s : State) (f : Dec4 → Dec4) : Out :=
  match s.dec with
  | .v6 _ => .refused .otherVariant
  | .v4 d =>
    match classify4 s.cfg d.nextDigit sin with
    | none => .refused .reservedPhase
    | some c' => if c' = c then .next { s with dec := .v4 (f d) } else .refused .notSelected

/-- The writes of a V6 capture after `n` digits (R125). -/
def Dec6.capture (c : Config) (n : Fin 6) (sin : Sin6) (d : Dec6) : Dec6 where
  reading := inWidth c.wReading6 ((d.reading <<< 4) ||| (digit6 c sin).setWidth 24)
  dp := if sin.asserted c .dp then decimalIndex n else d.dp
  nextDigit := BitVec.ofNat 4 (n.val + 1)

/-- The writes of a V4 capture after `k` arrivals (R145): `dp` is not written. -/
def Dec4.capture (c : Config) (k : Fin 4) (sin : Sin4) (d : Dec4) : Dec4 where
  reading := inWidth c.wReading4 (setNibble d.reading (fill4 c.numbering4 k) (digit4 c sin))
  dp := d.dp
  nextDigit := BitVec.ofNat 4 (k.val + 1)

/-- `DEC.RESET` on the decoder of either family (R121, R141). -/
def Decoder.cleared (c : Config) : Decoder → Decoder
  | .v6 _ => .v6 ⟨0, 0, c.idle⟩
  | .v4 _ => .v4 ⟨0, 0, c.idle⟩

/-! ### Transmitter -/

/-- The shift register's load value `{1, c[6:0], 0}` (R90, R162). -/
def frameLoad (c : Byte) : BitVec 9 := 1#1 ++ c.setWidth 7 ++ 0#1

/-- The effect of `TX.DONE` (R164). -/
def State.txFinished (s : State) : State := { s with tx := { s.tx with busy := false }, txd := true }

/-- `TX.LOAD` (R162): the next character's frame, or `TX.DONE` at the terminator. -/
def State.txLoadNext (s : State) : Out :=
  if s.tx.idx.toNat = s.txbufLen then .refused .noTerminator
  else s.memRead s.tx.idx.toNat fun c =>
    if c = 0 then .next s.txFinished
    else .next { s with tx := { s.tx with sr := frameLoad c, cnt := 9 } }

/-- `TxdDrive(b)` (R13, R163): the line takes the level, and the wire trace records it. -/
def State.txdDrive (s : State) (b : Bool) : State := { s with txd := b, wire := s.wire ++ [b] }

/-- The idle bit times that follow a frame (R8, D13): `G_IDLE` of them before a further character, none before the
terminator. -/
def State.gapAfterFrame (s : State) : Nat :=
  if s.txbuf.read (s.tx.idx + 1).toNat = some 0 then 0 else s.cfg.gIdle

/-! ### Interrupts and reset (60_exceptions.md) -/

/-- Taking an interrupt (R229): acknowledge the hardware and wake the core. Nothing is saved and no mode or
mask changes; the vector is excluded boot glue. -/
def State.takeInterrupt (s : State) : State := { s with ifg := noLines, awake := true }

/-- Return from the interrupt (R230): nothing is restored because nothing was changed. The main context
goes on where it was, or tests `awake` again in `SEQ.SLEEP`. -/
def State.returnFromInterrupt (s : State) : State := s

/-- A full device reset (R234, R250): every piece of state takes its reset value and control re-enters at
`SEQ.INIT`. What is no state of the device stays: the configuration, the wire trace already sent (R254) and the
environment's part. -/
def State.fullReset (s : State) : State :=
  { State.resetOf s.variant s.cfg with wire := s.wire, env := s.env }

end Sys2Proof.Machine
end

