-- ==== Sys2Proof/Machine/Irq.lean ====
section
/-! DEFINITION. Line-change interrupts and the watchdog (60_exceptions.md). -/

namespace Sys2Proof.Machine

/-- `IRQ.EDGE(L)` (R226): a level change makes an armed line pending; of another line it does nothing. -/
def execIrqEdge (l : Line) (s : State) : Out :=
  if lineIn l s.ie then .next { s with ifg := lineUnion s.ifg (lineSet [l]) } else .next s

/-- `IRQ.HANDLE` (R229, R230). -/
def execIrqHandle (s : State) : Out := .next s.takeInterrupt.returnFromInterrupt

/-- `WDT.RESET` (R233, R234). -/
def execWdtReset (s : State) : Out :=
  if s.wdtEnabled then .next s.fullReset else .refused .notEnabled

end Sys2Proof.Machine
end

