-- ==== Sys2Proof/Machine/Dec4.lean ====
section
/-! DEFINITION. The operations of the 4-digit decoder (41_decoder_v4.md). None touches anything outside
`dec`. -/

namespace Sys2Proof.Machine

/-- `DEC4.IDLE_HOLD` (R142): no write. -/
def execDec4IdleHold (sin : Sin4) (s : State) : Out := onClass4 .idleHold sin s fun d => d

/-- `DEC4.SYNC` (R143): clear, and expect the first arrival. -/
def execDec4Sync (sin : Sin4) (s : State) : Out := onClass4 .sync sin s fun _ => ⟨0, 0, 0⟩

/-- `DEC4.FROZEN` (R147): no write. -/
def execDec4Frozen (sin : Sin4) (s : State) : Out := onClass4 .frozen sin s fun d => d

/-- `DEC4.ABORT` (R144): clear, back to `Idle`. -/
def execDec4Abort (sin : Sin4) (s : State) : Out := onClass4 .abort sin s fun _ => ⟨0, 0, s.cfg.idle⟩

/-- `DEC4.CAPTURE1` (R145): arrival 1, strobe `DG1`. -/
def execDec4Capture1 (sin : Sin4) (s : State) : Out :=
  onClass4 (.capture 0) sin s (Dec4.capture s.cfg 0 sin)

/-- `DEC4.CAPTURE2` (R145): arrival 2, strobe `DG3`. -/
def execDec4Capture2 (sin : Sin4) (s : State) : Out :=
  onClass4 (.capture 1) sin s (Dec4.capture s.cfg 1 sin)

/-- `DEC4.CAPTURE3` (R145): arrival 3, strobe `DG2`. -/
def execDec4Capture3 (sin : Sin4) (s : State) : Out :=
  onClass4 (.capture 2) sin s (Dec4.capture s.cfg 2 sin)

/-- `DEC4.CAPTURE4` (R145): arrival 4, strobe `DG4`. -/
def execDec4Capture4 (sin : Sin4) (s : State) : Out :=
  onClass4 (.capture 3) sin s (Dec4.capture s.cfg 3 sin)

/-- `DEC4.HOLD1` (R146): no write while `DG1` is expected. -/
def execDec4Hold1 (sin : Sin4) (s : State) : Out := onClass4 (.hold 0) sin s fun d => d

/-- `DEC4.HOLD2` (R146): no write while `DG3` is expected. -/
def execDec4Hold2 (sin : Sin4) (s : State) : Out := onClass4 (.hold 1) sin s fun d => d

/-- `DEC4.HOLD3` (R146): no write while `DG2` is expected. -/
def execDec4Hold3 (sin : Sin4) (s : State) : Out := onClass4 (.hold 2) sin s fun d => d

/-- `DEC4.HOLD4` (R146): no write while `DG4` is expected. -/
def execDec4Hold4 (sin : Sin4) (s : State) : Out := onClass4 (.hold 3) sin s fun d => d

/-- `DEC4.STEP` (R148): exactly one class, chosen by R100. -/
def execDec4Step (sin : Sin4) (s : State) : Out :=
  match s.dec with
  | .v6 _ => .refused .otherVariant
  | .v4 d =>
    match classify4 s.cfg d.nextDigit sin with
    | none => .refused .reservedPhase
    | some .idleHold => execDec4IdleHold sin s
    | some .sync => execDec4Sync sin s
    | some .frozen => execDec4Frozen sin s
    | some .abort => execDec4Abort sin s
    | some (.capture 0) => execDec4Capture1 sin s
    | some (.capture 1) => execDec4Capture2 sin s
    | some (.capture 2) => execDec4Capture3 sin s
    | some (.capture 3) => execDec4Capture4 sin s
    | some (.hold 0) => execDec4Hold1 sin s
    | some (.hold 1) => execDec4Hold2 sin s
    | some (.hold 2) => execDec4Hold3 sin s
    | some (.hold 3) => execDec4Hold4 sin s

/-- `DEC4.RESET` (R141): legal in every phase. -/
def execDec4Reset (s : State) : Out :=
  match s.dec with
  | .v4 _ => .next { s with dec := s.dec.cleared s.cfg }
  | .v6 _ => .refused .otherVariant

end Sys2Proof.Machine
end

