-- ==== Sys2Proof/Machine/Dec6.lean ====
section
/-! DEFINITION. The operations of the 6-digit decoder (40_decoder_v6.md). None touches anything outside
`dec`. -/

namespace Sys2Proof.Machine

/-- `DEC6.IDLE_HOLD` (R122): no write. -/
def execDec6IdleHold (sin : Sin6) (s : State) : Out := onClass6 .idleHold sin s fun d => d

/-- `DEC6.SYNC` (R123): clear, and expect the first digit. -/
def execDec6Sync (sin : Sin6) (s : State) : Out := onClass6 .sync sin s fun _ => ⟨0, 0, 0⟩

/-- `DEC6.FROZEN` (R127): no write. -/
def execDec6Frozen (sin : Sin6) (s : State) : Out := onClass6 .frozen sin s fun d => d

/-- `DEC6.ABORT` (R124): clear, back to `Idle`. -/
def execDec6Abort (sin : Sin6) (s : State) : Out := onClass6 .abort sin s fun _ => ⟨0, 0, s.cfg.idle⟩

/-- `DEC6.CAPTURE1` (R125): digit 1. -/
def execDec6Capture1 (sin : Sin6) (s : State) : Out :=
  onClass6 (.capture 0) sin s (Dec6.capture s.cfg 0 sin)

/-- `DEC6.CAPTURE2` (R125): digit 2. -/
def execDec6Capture2 (sin : Sin6) (s : State) : Out :=
  onClass6 (.capture 1) sin s (Dec6.capture s.cfg 1 sin)

/-- `DEC6.CAPTURE3` (R125): digit 3. -/
def execDec6Capture3 (sin : Sin6) (s : State) : Out :=
  onClass6 (.capture 2) sin s (Dec6.capture s.cfg 2 sin)

/-- `DEC6.CAPTURE4` (R125): digit 4. -/
def execDec6Capture4 (sin : Sin6) (s : State) : Out :=
  onClass6 (.capture 3) sin s (Dec6.capture s.cfg 3 sin)

/-- `DEC6.CAPTURE5` (R125): digit 5. -/
def execDec6Capture5 (sin : Sin6) (s : State) : Out :=
  onClass6 (.capture 4) sin s (Dec6.capture s.cfg 4 sin)

/-- `DEC6.CAPTURE6` (R125): digit 6. -/
def execDec6Capture6 (sin : Sin6) (s : State) : Out :=
  onClass6 (.capture 5) sin s (Dec6.capture s.cfg 5 sin)

/-- `DEC6.HOLD1` (R126): no write while digit 1 is expected. -/
def execDec6Hold1 (sin : Sin6) (s : State) : Out := onClass6 (.hold 0) sin s fun d => d

/-- `DEC6.HOLD2` (R126): no write while digit 2 is expected. -/
def execDec6Hold2 (sin : Sin6) (s : State) : Out := onClass6 (.hold 1) sin s fun d => d

/-- `DEC6.HOLD3` (R126): no write while digit 3 is expected. -/
def execDec6Hold3 (sin : Sin6) (s : State) : Out := onClass6 (.hold 2) sin s fun d => d

/-- `DEC6.HOLD4` (R126): no write while digit 4 is expected. -/
def execDec6Hold4 (sin : Sin6) (s : State) : Out := onClass6 (.hold 3) sin s fun d => d

/-- `DEC6.HOLD5` (R126): no write while digit 5 is expected. -/
def execDec6Hold5 (sin : Sin6) (s : State) : Out := onClass6 (.hold 4) sin s fun d => d

/-- `DEC6.HOLD6` (R126): no write while digit 6 is expected. -/
def execDec6Hold6 (sin : Sin6) (s : State) : Out := onClass6 (.hold 5) sin s fun d => d

/-- `DEC6.STEP` (R128): exactly one class, chosen by R100. -/
def execDec6Step (sin : Sin6) (s : State) : Out :=
  match s.dec with
  | .v4 _ => .refused .otherVariant
  | .v6 d =>
    match classify6 s.cfg d.nextDigit sin with
    | none => .refused .reservedPhase
    | some .idleHold => execDec6IdleHold sin s
    | some .sync => execDec6Sync sin s
    | some .frozen => execDec6Frozen sin s
    | some .abort => execDec6Abort sin s
    | some (.capture 0) => execDec6Capture1 sin s
    | some (.capture 1) => execDec6Capture2 sin s
    | some (.capture 2) => execDec6Capture3 sin s
    | some (.capture 3) => execDec6Capture4 sin s
    | some (.capture 4) => execDec6Capture5 sin s
    | some (.capture 5) => execDec6Capture6 sin s
    | some (.hold 0) => execDec6Hold1 sin s
    | some (.hold 1) => execDec6Hold2 sin s
    | some (.hold 2) => execDec6Hold3 sin s
    | some (.hold 3) => execDec6Hold4 sin s
    | some (.hold 4) => execDec6Hold5 sin s
    | some (.hold 5) => execDec6Hold6 sin s

/-- `DEC6.RESET` (R121): legal in every phase. -/
def execDec6Reset (s : State) : Out :=
  match s.dec with
  | .v6 _ => .next { s with dec := s.dec.cleared s.cfg }
  | .v4 _ => .refused .otherVariant

end Sys2Proof.Machine
end

