-- ==== Sys2Proof/Machine/Fmt.lean ====
section
/-! DEFINITION. The reading formatter (43_formatter.md). It reads its operands and writes `txbuf` and nothing
else but the free values it draws. Character codes are 7-bit ASCII (R91). -/

namespace Sys2Proof.Machine

/-- A 7-bit code as a stored character; bit 7 is clear (R187). -/
def char8 (c : Char7) : Byte := c.setWidth 8

/-- `glyph(v)` (R182): `'0'`+v up to 9; above 9 the free value. -/
def glyph (free : Char7) (v : BitVec 4) : Byte :=
  if v.toNat ≤ 9 then 0x30 + v.setWidth 8 else char8 free

/-- The leading indicator (R181, R185): `OVF_GLYPH` on overflow, else a space. -/
def indicator (c : Config) (ovf : Bool) : Byte := if ovf then char8 c.ovfGlyph else 0x20

/-- The line end and the terminator (R91, R186). -/
def lineEnd : List Byte := [0x0D, 0x0A, 0x00]

/-- `UNIT6(RNG, NML)` (R184): the row (0, 1) is "ms". -/
def unit6 (u : UnitTable) (rng nml : Bool) : List Byte :=
  match rng, nml with
  | false, true => [0x6D, 0x73]
  | true, true => u.rng1nml1.map char8
  | false, false => u.rng0nml0.map char8
  | true, false => u.rng1nml0.map char8

/-- The digit characters `g1` to `g6` in display order (R181); digit `j` takes the draw `n + j` where it needs
one (log 5). -/
def digits6 (n : Nat) (reading : BitVec 24) : List Byte :=
  [glyph (Config.freeGlyph n) (nibble reading 5),
   glyph (Config.freeGlyph (n + 1)) (nibble reading 4),
   glyph (Config.freeGlyph (n + 2)) (nibble reading 3),
   glyph (Config.freeGlyph (n + 3)) (nibble reading 2),
   glyph (Config.freeGlyph (n + 4)) (nibble reading 1),
   glyph (Config.freeGlyph (n + 5)) (nibble reading 0)]

/-- The digits with the point so that exactly `p` digits follow it, 1 to 6; no point for 0 (R183, C2). -/
def withPoint (p : Nat) (gs : List Byte) : List Byte :=
  if p = 0 then gs else gs.take (6 - p) ++ [0x2E] ++ gs.drop (6 - p)

/-- The V6 line (R181). -/
def text6 (c : Config) (n : Nat) (reading : BitVec 24) (dp : BitVec 3) (aux : Sin6) : List Byte :=
  [indicator c (aux.asserted c .ovf)] ++ withPoint dp.toNat (digits6 n reading) ++
    (if dp = 0 then [] else
      unit6 c.unit6 (aux.asserted c .rng) (aux.asserted c .nml)) ++ lineEnd

/-- The V4 line (R185). -/
def text4 (c : Config) (n : Nat) (reading : BitVec 16) : List Byte :=
  [indicator c (overflow4 c reading),
   (if polarity4 c reading then 0x2B else 0x2D),
   (if halfDigit4 c reading then 0x31 else 0x20),
   glyph (Config.freeGlyph n) (nibble reading 2),
   glyph (Config.freeGlyph (n + 1)) (nibble reading 1),
   glyph (Config.freeGlyph (n + 2)) (nibble reading 0)] ++ lineEnd

/-- `FMT6` (R181). A decimal index of 7 is no operand (log 13). -/
def execFmt6 (reading : BitVec 24) (dp : BitVec 3) (aux : Sin6) (s : State) : Out :=
  match s.dec with
  | .v4 _ => .refused .otherVariant
  | .v6 _ =>
    if dp.toNat ≤ 6 then (s.drawn 6).fillTxbuf (text6 s.cfg s.env.draws reading dp aux)
    else .refused .illegalDp

/-- `FMT4` (R185). -/
def execFmt4 (reading : BitVec 16) (s : State) : Out :=
  match s.dec with
  | .v6 _ => .refused .otherVariant
  | .v4 _ => (s.drawn 3).fillTxbuf (text4 s.cfg s.env.draws reading)

end Sys2Proof.Machine
end

