-- ==== Sys2Proof/Machine/Trans.lean ====
section
/-! DEFINITION. The serial transmitter (42_transmitter.md). -/

namespace Sys2Proof.Machine

/-- `TX.SEND` (R161): explicit reset of the framing hardware, then the first `TX.LOAD`. While busy it is refused as
`TxBusy` even where the buffer holds no terminator either: the spec states both refusals and no order between them, DESIGN
CHOICE (log 28). -/
def execTxSend (s : State) : Out :=
  if s.tx.busy then .refused .txBusy
  else if s.hasTerminator then
    State.txLoadNext { s with tx := ⟨true, 0x1FF, 0, 0⟩, txd := true, gap := 0 }
  else .refused .noTerminator

/-- `TX.LOAD` (R162). -/
def execTxLoad (s : State) : Out := s.txLoadNext

/-- `TX.TICK` (R163): drive bit 0, shift right with a mark entering, count; the ninth tick of a frame moves to
the next character. The `TX.LOAD` that follows, when the stop bit's time has elapsed, is a step of its own
(log 17); `G_IDLE` bit times pass before it if a further character follows (log 30). Not enabled unless `tx.busy` = 1 and
`tx.cnt` > 0. `tx.idx` is a `u4`: in a buffer of 16 characters without a terminator, which the rules exclude (R24, R168), the
tick at index 15 wraps it to 0, DESIGN CHOICE (log 29). -/
def execTxTick (s : State) : Out :=
  if s.tx.busy && s.tx.cnt != 0 then
    .next ({ s with
      gap := if s.tx.cnt = 1 then s.gapAfterFrame else s.gap
      tx := { s.tx with
        sr := 1#1 ++ s.tx.sr.extractLsb' 1 8
        cnt := s.tx.cnt - 1
        idx := if s.tx.cnt = 1 then s.tx.idx + 1 else s.tx.idx } }.txdDrive (s.tx.sr.getLsbD 0))
  else .refused .notEnabled

/-- `TX.DONE` (R164). -/
def execTxDone (s : State) : Out := .next s.txFinished

end Sys2Proof.Machine
end

