-- ==== Sys2Proof/Machine/Seq.lean ====
section
/-! DEFINITION. The acquisition loop (44_sequencer.md). Each action has its effect and moves the sequencer to
the action R200 puts after it; which action is due is the sequencer's place (Fetch.lean, log 16). -/

namespace Sys2Proof.Machine

/-- `SEQ.INIT` (R201): `DEC.RESET`, and the watchdog is armed. -/
def execSeqInit (s : State) : Out :=
  .next ({ s with dec := s.dec.cleared s.cfg, wdtArmed := true }.goTo .arm)

/-- `SEQ.ARM` (R202): arm the relevant lines and any others. -/
def execSeqArm (s : State) : Out :=
  match relevant s.cfg s.dec with
  | some r =>
    .next (({ s with
      ie := lineUnion r (lineInter (Config.freeArmed s.env.draws) (capableLines s.variant)) }.drawn 1).goTo .sleep)
  | none => .refused .reservedPhase

/-- `SEQ.SLEEP` (R203): with `awake` = 0 the core sleeps here; with `awake` = 1 it returns and clears the flag.
Test and sleep are one action (R71). -/
def execSeqSleep (s : State) : Out :=
  if s.awake then .next ({ s with awake := false, seq := { s.seq with asleep := false } }.goTo .wake)
  else .next { s with seq := { s.seq with asleep := true } }

/-- `SEQ.WAKE` (R204): servicing the watchdog changes no modelled state. -/
def execSeqWake (s : State) : Out := .next (s.goTo .sample)

/-- `SEQ.SAMPLE` (R205): `s <- Sample()`. -/
def execSeqSample (s : State) : Out :=
  .next ({ s.afterSample with seq := { s.seq with sample := s.sampleWord } }.goTo .step)

/-- Where the loop goes after `SEQ.STEP` (R200). -/
def State.afterStep (s : State) : State := s.goTo (if s.dec.complete then .aux else .arm)

/-- `SEQ.STEP` (R206): `DEC.STEP(s)`, exactly once. -/
def execSeqStep (s : State) : Out :=
  onNext
    (match s.dec with
     | .v6 _ => execDec6Step ⟨s.seq.sample⟩ s
     | .v4 _ => execDec4Step ⟨s.seq.sample⟩ s)
    State.afterStep

/-- `dec.reading` as the 24-bit value the loop carries (log 21). -/
def Decoder.reading24 : Decoder → BitVec 24
  | .v6 d => d.reading
  | .v4 d => d.reading.setWidth 24

/-- `dec.dp` (R22). -/
def Decoder.dpIndex : Decoder → BitVec 3
  | .v6 d => d.dp
  | .v4 d => d.dp

/-- `SEQ.AUX` (R207): a fresh sample, and the reading is read once. -/
def execSeqAux (s : State) : Out :=
  .next ({ s.afterSample with
    seq := { s.seq with
      aux := s.sampleWord, reading := s.dec.reading24, dp := s.dec.dpIndex } }.goTo .format)

/-- `SEQ.FORMAT` (R208): the family's formatter on `result` and `aux`. -/
def execSeqFormat (s : State) : Out :=
  onNext
    (match s.dec with
     | .v6 _ => execFmt6 s.seq.reading s.seq.dp ⟨s.seq.aux⟩ s
     | .v4 _ => execFmt4 (s.seq.reading.setWidth 16) s)
    (·.goTo .transmit)

/-- `SEQ.TRANSMIT` (R209): `TX.SEND`; the wait for `tx.busy` = 0 holds the sequencer before `SEQ.REARM`
(Fetch.lean). -/
def execSeqTransmit (s : State) : Out := onNext (execTxSend s) (·.goTo .rearm)

/-- `SEQ.REARM` (R210): `DEC.RESET`, and the loop starts again. -/
def execSeqRearm (s : State) : Out := .next ({ s with dec := s.dec.cleared s.cfg }.goTo .arm)

end Sys2Proof.Machine
end

