-- ==== Sys2Proof/Machine/Fetch.lean ====
section
/-! DEFINITION. Which operation happens next (R70, R200): the block fetches no instructions (R9), so a step
takes the environment's turn and the operation that this turn performs here. -/

namespace Sys2Proof.Machine

/-- Whose turn it is (log 3). -/
def State.turn (s : State) : Turn :=
  match s.env.turns with
  | t :: _ => t
  | [] => Config.freeTurn s.env.draws

/-- The state with the turn taken off the schedule. -/
def State.afterTurn (s : State) : State :=
  match s.env.turns with
  | _ :: ts => { s with env := { s.env with turns := ts } }
  | [] => { s with env := { s.env with draws := s.env.draws + 1 } }

/-- The sequencer's action at a place of its loop (R200). -/
def SeqPos.op : SeqPos → Instr
  | .init => .seqInit
  | .arm => .seqArm
  | .sleep => .seqSleep
  | .wake => .seqWake
  | .sample => .seqSample
  | .step => .seqStep
  | .aux => .seqAux
  | .format => .seqFormat
  | .transmit => .seqTransmit
  | .rearm => .seqRearm

/-- The operation a turn performs; none where its trigger does not hold, and then nothing happens. While
`tx.busy` = 1 the sequencer takes no step (R166, R209); the bit clock ticks while `tx.busy` = 1 (R163) and loads
the next character when a frame has ended and the gap after it has passed (R162, log 30); the handler runs when `ifg` is not empty (R229); the watchdog
fires where it is enabled (R233). -/
def State.op (s : State) : Turn → Option Instr
  | .main => if s.tx.busy then none else some s.seq.pos.op
  | .edge l => some (.irqEdge l)
  | .irq => if s.ifg = noLines then none else some .irqHandle
  | .bitClock => if s.tx.busy then (if s.tx.cnt = 0 then (if s.gap = 0 then some .txLoad else none) else some .txTick) else none
  | .watchdog => if s.wdtEnabled then some .wdtReset else none

/-- A turn that performs no operation passes. In the gap between two characters the bit clock's turn is one of its
`G_IDLE` bit times (R8, D13): the line stays at mark and the wire trace takes nothing (R163; log 30). -/
def State.passTurn (s : State) : Turn → State
  | .bitClock => if s.tx.busy && s.tx.cnt == 0 then { s with gap := s.gap - 1 } else s
  | .main => s
  | .edge _ => s
  | .irq => s
  | .watchdog => s

/-- The decoder in the phase a table word is read in (log 19). -/
def Decoder.withTablePhase (c : Config) (w : Word) : Decoder → Decoder
  | .v6 d => .v6 { d with nextDigit := tablePhase6 c ⟨w⟩ }
  | .v4 d => .v4 { d with nextDigit := tablePhase4 c ⟨w⟩ }

/-- The state in which the next step runs the class that a table word stands for: the word is the wake's sample,
the sequencer is at `SEQ.STEP`, the decoder in the word's phase, and it is the main thread's turn (log 19). -/
def State.placeWord (s : State) (w : Word) : State :=
  { s with
    dec := s.dec.withTablePhase s.cfg w
    tx := { s.tx with busy := false }
    seq := { s.seq with pos := .step, sample := w }
    env := { s.env with turns := .main :: s.env.turns } }

end Sys2Proof.Machine
end

