-- ==== Sys2Proof/Machine/Dispatch.lean ====
section
/-! DEFINITION. One arm per operation. -/

namespace Sys2Proof.Machine

def exec (i : Instr) (s : State) : Host.Outcome State Fault Refusal :=
  match i with
  | .dec6IdleHold sin => Sys2Proof.Machine.execDec6IdleHold sin s
  | .dec6Sync sin => Sys2Proof.Machine.execDec6Sync sin s
  | .dec6Frozen sin => Sys2Proof.Machine.execDec6Frozen sin s
  | .dec6Abort sin => Sys2Proof.Machine.execDec6Abort sin s
  | .dec6Capture1 sin => Sys2Proof.Machine.execDec6Capture1 sin s
  | .dec6Capture2 sin => Sys2Proof.Machine.execDec6Capture2 sin s
  | .dec6Capture3 sin => Sys2Proof.Machine.execDec6Capture3 sin s
  | .dec6Capture4 sin => Sys2Proof.Machine.execDec6Capture4 sin s
  | .dec6Capture5 sin => Sys2Proof.Machine.execDec6Capture5 sin s
  | .dec6Capture6 sin => Sys2Proof.Machine.execDec6Capture6 sin s
  | .dec6Hold1 sin => Sys2Proof.Machine.execDec6Hold1 sin s
  | .dec6Hold2 sin => Sys2Proof.Machine.execDec6Hold2 sin s
  | .dec6Hold3 sin => Sys2Proof.Machine.execDec6Hold3 sin s
  | .dec6Hold4 sin => Sys2Proof.Machine.execDec6Hold4 sin s
  | .dec6Hold5 sin => Sys2Proof.Machine.execDec6Hold5 sin s
  | .dec6Hold6 sin => Sys2Proof.Machine.execDec6Hold6 sin s
  | .dec4IdleHold sin => Sys2Proof.Machine.execDec4IdleHold sin s
  | .dec4Sync sin => Sys2Proof.Machine.execDec4Sync sin s
  | .dec4Frozen sin => Sys2Proof.Machine.execDec4Frozen sin s
  | .dec4Abort sin => Sys2Proof.Machine.execDec4Abort sin s
  | .dec4Capture1 sin => Sys2Proof.Machine.execDec4Capture1 sin s
  | .dec4Capture2 sin => Sys2Proof.Machine.execDec4Capture2 sin s
  | .dec4Capture3 sin => Sys2Proof.Machine.execDec4Capture3 sin s
  | .dec4Capture4 sin => Sys2Proof.Machine.execDec4Capture4 sin s
  | .dec4Hold1 sin => Sys2Proof.Machine.execDec4Hold1 sin s
  | .dec4Hold2 sin => Sys2Proof.Machine.execDec4Hold2 sin s
  | .dec4Hold3 sin => Sys2Proof.Machine.execDec4Hold3 sin s
  | .dec4Hold4 sin => Sys2Proof.Machine.execDec4Hold4 sin s
  | .dec6Step sin => Sys2Proof.Machine.execDec6Step sin s
  | .dec4Step sin => Sys2Proof.Machine.execDec4Step sin s
  | .dec6Reset => Sys2Proof.Machine.execDec6Reset s
  | .dec4Reset => Sys2Proof.Machine.execDec4Reset s
  | .fmt6 reading dp aux => Sys2Proof.Machine.execFmt6 reading dp aux s
  | .fmt4 reading => Sys2Proof.Machine.execFmt4 reading s
  | .txSend => Sys2Proof.Machine.execTxSend s
  | .txLoad => Sys2Proof.Machine.execTxLoad s
  | .txTick => Sys2Proof.Machine.execTxTick s
  | .txDone => Sys2Proof.Machine.execTxDone s
  | .seqInit => Sys2Proof.Machine.execSeqInit s
  | .seqArm => Sys2Proof.Machine.execSeqArm s
  | .seqSleep => Sys2Proof.Machine.execSeqSleep s
  | .seqWake => Sys2Proof.Machine.execSeqWake s
  | .seqSample => Sys2Proof.Machine.execSeqSample s
  | .seqStep => Sys2Proof.Machine.execSeqStep s
  | .seqAux => Sys2Proof.Machine.execSeqAux s
  | .seqFormat => Sys2Proof.Machine.execSeqFormat s
  | .seqTransmit => Sys2Proof.Machine.execSeqTransmit s
  | .seqRearm => Sys2Proof.Machine.execSeqRearm s
  | .irqEdge l => Sys2Proof.Machine.execIrqEdge l s
  | .irqHandle => Sys2Proof.Machine.execIrqHandle s
  | .wdtReset => Sys2Proof.Machine.execWdtReset s

end Sys2Proof.Machine
end

