-- ==== Sys2Proof/Machine/Step.lean ====
section
/-! DEFINITION. One step of the block: a turn is taken, and the operation it performs is executed; a turn whose
trigger does not hold performs none. -/

namespace Sys2Proof.Machine

/-- One step. -/
def step (s : State) : Host.Outcome State Fault Refusal :=
  match s.afterTurn.op s.turn with
  | some i => exec i s.afterTurn
  | none => .next (s.afterTurn.passTurn s.turn)

/-- The state whose next step runs the operation of a table word (log 19). -/
def State.withFetchWord (s : State) (_nbits w : Nat) : State := s.placeWord (w % 2 ^ s.cfg.wSin)

end Sys2Proof.Machine
end

