-- ==== Sys2Proof/WellFormed.lean ====
section
/-! DEFINITION. Which configurations and operations are well formed. -/

namespace Sys2Proof

/-! ### Configuration (R8) -/

/-- Every line of a layout has a bit of its own ("one bit per physical signal", R80). -/
def Layout6.distinct (lay : Layout6) : Bool := decide (Line6.all.map lay.bit).Nodup

/-- Every line of a layout has a bit of its own (R80). -/
def Layout4.distinct (lay : Layout4) : Bool := decide (Line4.all.map lay.bit).Nodup

/-- A unit suffix has at most 3 characters (R184), none of them the terminator. -/
def suffixOk (u : List Char7) : Bool := decide (u.length ≤ 3) && u.all (· != 0)

/-- Every line's bit lies inside the sampled word (R13, R80). -/
def Layout6.within (lay : Layout6) (width : Nat) : Bool := Line6.all.all fun l => decide (lay.bit l < width)

/-- Every line's bit lies inside the sampled word (R13, R80). -/
def Layout4.within (lay : Layout4) (width : Nat) : Bool := Line4.all.all fun l => decide (lay.bit l < width)

/-- The constraints the spec puts on the parameters: distinct bits (R80) inside the word (R13), an `IDLE` outside 0..6
(D6), a reading of 4·N bits or more (D5), a buffer that holds the
longest line and is indexed by a `u4` (R26, R186), an overflow glyph distinct from normal (R181), suffixes
(R184), and flag bits that fit the source's one data point (R185, D26). -/
def Config.valid (c : Config) : Bool :=
  c.layout6.distinct && c.layout4.distinct &&
  decide (14 ≤ c.txbufLen6 ∧ c.txbufLen6 ≤ 16) && decide (9 ≤ c.txbufLen4 ∧ c.txbufLen4 ≤ 16) &&
  (c.ovfGlyph != 0x20) && (c.ovfGlyph != 0) &&
  suffixOk c.unit6.rng0nml0 && suffixOk c.unit6.rng1nml0 && suffixOk c.unit6.rng1nml1 &&
  decide (c.polBit = 1 ∨ c.polBit = 2) &&
  decide (7 ≤ c.idle.toNat) && c.layout6.within c.wSin && c.layout4.within c.wSin &&
  decide (24 ≤ c.wReading6) && decide (16 ≤ c.wReading4) &&
  decide ((c.ovfBit = 3 ∧ c.oneBit = 0) ∨ (c.ovfBit = 0 ∧ c.oneBit = 3))

/-! ### Operations -/

/-- Reserved bits are 0 in every sample (R104). -/
def Sin6.reservedClear (c : Config) (sin : Sin6) : Bool := sin.clean c == sin

/-- Reserved bits are 0 in every sample (R104). -/
def Sin4.reservedClear (c : Config) (sin : Sin4) : Bool := sin.clean c == sin

/-- The condition on `sin` of a V6 class (R100). -/
def Class6.admits (c : Config) (sin : Sin6) : Class6 → Bool
  | .idleHold => sin.asserted c .mup
  | .sync => !sin.asserted c .mup
  | .frozen => true
  | .abort => sin.asserted c .mup
  | .capture n => !sin.asserted c .mup && sin.asserted c (strobe6 n)
  | .hold n => !sin.asserted c .mup && !sin.asserted c (strobe6 n)

/-- The condition on `sin` of a V4 class (R100). -/
def Class4.admits (c : Config) (sin : Sin4) : Class4 → Bool
  | .idleHold => sin.asserted c .mup
  | .sync => !sin.asserted c .mup
  | .frozen => true
  | .abort => sin.asserted c .mup
  | .capture k => !sin.asserted c .mup && sin.asserted c (strobe4 k)
  | .hold k => !sin.asserted c .mup && !sin.asserted c (strobe4 k)

/-- A word that may stand in a V6 class row. -/
def Sin6.fits (c : Config) (sin : Sin6) (k : Class6) : Bool :=
  sin.reservedClear c && k.admits c sin

/-- A word that may stand in a V4 class row. -/
def Sin4.fits (c : Config) (sin : Sin4) (k : Class4) : Bool :=
  sin.reservedClear c && k.admits c sin

/-- Well-formed operations: a class row's word meets the row's condition (R100) and has its reserved
bits clear (R104); `FMT6` has a decimal index in 0..6 (R181). -/
def Instr.wellFormed (c : Config) : Instr → Bool
  | .dec6IdleHold sin => sin.fits c .idleHold
  | .dec6Sync sin => sin.fits c .sync
  | .dec6Frozen sin => sin.fits c .frozen
  | .dec6Abort sin => sin.fits c .abort
  | .dec6Capture1 sin => sin.fits c (.capture 0)
  | .dec6Capture2 sin => sin.fits c (.capture 1)
  | .dec6Capture3 sin => sin.fits c (.capture 2)
  | .dec6Capture4 sin => sin.fits c (.capture 3)
  | .dec6Capture5 sin => sin.fits c (.capture 4)
  | .dec6Capture6 sin => sin.fits c (.capture 5)
  | .dec6Hold1 sin => sin.fits c (.hold 0)
  | .dec6Hold2 sin => sin.fits c (.hold 1)
  | .dec6Hold3 sin => sin.fits c (.hold 2)
  | .dec6Hold4 sin => sin.fits c (.hold 3)
  | .dec6Hold5 sin => sin.fits c (.hold 4)
  | .dec6Hold6 sin => sin.fits c (.hold 5)
  | .dec4IdleHold sin => sin.fits c .idleHold
  | .dec4Sync sin => sin.fits c .sync
  | .dec4Frozen sin => sin.fits c .frozen
  | .dec4Abort sin => sin.fits c .abort
  | .dec4Capture1 sin => sin.fits c (.capture 0)
  | .dec4Capture2 sin => sin.fits c (.capture 1)
  | .dec4Capture3 sin => sin.fits c (.capture 2)
  | .dec4Capture4 sin => sin.fits c (.capture 3)
  | .dec4Hold1 sin => sin.fits c (.hold 0)
  | .dec4Hold2 sin => sin.fits c (.hold 1)
  | .dec4Hold3 sin => sin.fits c (.hold 2)
  | .dec4Hold4 sin => sin.fits c (.hold 3)
  | .dec6Step sin => sin.reservedClear c
  | .dec4Step sin => sin.reservedClear c
  | .dec6Reset => true
  | .dec4Reset => true
  | .fmt6 _ dp aux => decide (dp.toNat ≤ 6) && aux.reservedClear c
  | .fmt4 _ => true
  | .txSend => true
  | .txLoad => true
  | .txTick => true
  | .txDone => true
  | .seqInit => true
  | .seqArm => true
  | .seqSleep => true
  | .seqWake => true
  | .seqSample => true
  | .seqStep => true
  | .seqAux => true
  | .seqFormat => true
  | .seqTransmit => true
  | .seqRearm => true
  | .irqEdge _ => true
  | .irqHandle => true
  | .wdtReset => true

end Sys2Proof
end

