-- ==== Sys2Proof/Safety.lean ====
section
/-! DEFINITION. Runs, the notation of sample traces (30 R110, R111), the serial frame (R90), and the invariant
that the block's own loop keeps (40 R132, 41 R151, 60 R239). -/

namespace Sys2Proof.Machine

/-! ### Runs -/

/-- `n` steps, stopping at the first stop. -/
def runSteps : Nat → State → Out
  | 0, s => .next s
  | n + 1, s =>
    match step s with
    | .next t => runSteps n t
    | .fault r => .fault r
    | .refused r => .refused r

/-- Operations one after another, stopping at the first stop. -/
def runOps : List Instr → State → Out
  | [], s => .next s
  | i :: is, s =>
    match exec i s with
    | .next t => runOps is t
    | .fault r => .fault r
    | .refused r => .refused r

/-! ### Traces (R110, R111) -/

/-- The brace form of a V6 word: the asserted lines and the data nibble, default layout. -/
def brace6 (ls : List Line6) (d : BitVec 4) : Sin6 :=
  ⟨ls.foldr (fun l m => 2 ^ Layout6.default.bit l ||| m) d.toNat⟩

/-- The brace form of a V4 word. -/
def brace4 (ls : List Line4) (d : BitVec 4) : Sin4 :=
  ⟨ls.foldr (fun l m => 2 ^ Layout4.default.bit l ||| m) d.toNat⟩

/-- `START` in V6: `{MUP}, {}`. -/
def start6 : List Sin6 := [brace6 [.mup] 0, brace6 [] 0]

/-- `START` in V4. -/
def start4 : List Sin4 := [brace4 [.mup] 0, brace4 [] 0]

/-- `SWEEP6(d1,...,d6; dp=k)`: `DP` is added to the word of digit 7 - k. -/
def sweep6 (ds : Fin 6 → BitVec 4) (k : Nat) : List Sin6 :=
  (List.finRange 6).map fun n =>
    brace6 (if n.val + 1 = 7 - k then [strobe6 n, .dp] else [strobe6 n]) (ds n)

/-- `SWEEP4(a1,...,a4)`, in the order of arrival. -/
def sweep4 (as : Fin 4 → BitVec 4) : List Sin4 :=
  (List.finRange 4).map fun k => brace4 [strobe4 k] (as k)

/-- `FRAME(c)` (R90, R165): start, bits 0 to 6, stop. -/
def frameLevels (c : Byte) : List Bool :=
  [false, c.getLsbD 0, c.getLsbD 1, c.getLsbD 2, c.getLsbD 3, c.getLsbD 4, c.getLsbD 5, c.getLsbD 6, true]

/-! ### The invariant -/

/-- The reachable V6 decoder states (R132). -/
def Dec6.Reachable (c : Config) (d : Dec6) : Prop :=
  (d.nextDigit = c.idle ∧ d.reading = 0 ∧ d.dp = 0) ∨
  (d.nextDigit.toNat ≤ 6 ∧ d.reading.toNat < 16 ^ d.nextDigit.toNat ∧
    (d.dp = 0 ∨ (7 - d.nextDigit.toNat ≤ d.dp.toNat ∧ d.dp.toNat ≤ 6)))

/-- The reachable V4 decoder states (R151): `dp` is 0 and every nibble not yet filled is 0. -/
def Dec4.Reachable (c : Config) (d : Dec4) : Prop :=
  d.dp = 0 ∧
  ((d.nextDigit = c.idle ∧ d.reading = 0) ∨
   (d.nextDigit.toNat ≤ 4 ∧
     ∀ k : Fin 4, d.nextDigit.toNat ≤ k.val → nibble d.reading (fill4 c.numbering4 k) = 0))

/-- The reachable decoder states. -/
def Decoder.Reachable (c : Config) : Decoder → Prop
  | .v6 d => d.Reachable c
  | .v4 d => d.Reachable c

/-- From index `i` the buffer holds written characters up to a terminator inside it (R168). -/
def State.TextFrom (s : State) (i : Nat) : Prop :=
  ∃ n, i ≤ n ∧ n < s.txbufLen ∧ s.txbuf.read n = some 0 ∧
    ∀ j, i ≤ j → j < n → ∃ c, s.txbuf.read j = some c ∧ c ≠ 0

/-- The places of the loop between the completing step and `SEQ.REARM` (R211). -/
def SeqPos.afterComplete : SeqPos → Bool
  | .aux | .format | .transmit | .rearm => true
  | .init | .arm | .sleep | .wake | .sample | .step => false

/-- What the block's own loop keeps. -/
structure State.Inv (s : State) : Prop where
  /-- The parameters meet the spec's constraints (R8). -/
  cfgValid : s.cfg.valid = true
  /-- R132, R151. -/
  decReachable : s.dec.Reachable s.cfg
  /-- The buffer is in canonical form and inside its bounds (R61). -/
  bufWf : Memory.wf s.txbuf = true
  bufBound : ∀ x ∈ s.txbuf, x.1 < s.txbufLen
  /-- The decoder is complete exactly between the completing step and `SEQ.REARM` (R211). -/
  completeIff : s.dec.complete = s.seq.pos.afterComplete
  /-- Before `SEQ.INIT` the decoder is reset and the watchdog unarmed (R36, R201). -/
  initDec : s.seq.pos = .init → s.dec.nextDigit = s.cfg.idle
  armedIff : s.wdtArmed = (s.seq.pos != .init)
  /-- The core sleeps only in `SEQ.SLEEP` (R203). -/
  asleepAt : s.seq.asleep = true → s.seq.pos = .sleep
  /-- What `SEQ.FORMAT` formats is the decoder's reading (R207). -/
  result : s.seq.pos = .format → s.seq.reading = s.dec.reading24 ∧ s.seq.dp = s.dec.dpIndex
  /-- What `SEQ.TRANSMIT` sends is terminated (R168). -/
  toSend : s.seq.pos = .transmit → s.TextFrom 0
  /-- The transmitter is busy only inside `SEQ.TRANSMIT` (R209), on a terminated text (R168). -/
  busyAt : s.tx.busy = true → s.seq.pos = .rearm
  busyText : s.tx.busy = true → s.TextFrom s.tx.idx.toNat
  /-- Inside a frame the character being sent is no terminator (R162). -/
  inFrame : s.tx.busy = true → s.tx.cnt ≠ 0 →
    ∃ c, s.txbuf.read s.tx.idx.toNat = some c ∧ c ≠ 0
  /-- At most 9 bit times are left, and everything above the bits still to send is mark (R26, R163). -/
  cntLe : s.tx.cnt.toNat ≤ 9
  marks : ∀ i, s.tx.cnt.toNat ≤ i + 1 → i < 9 → s.tx.sr.getLsbD i = true
  /-- Idle bit times fall between two characters of a transmission only, `G_IDLE` of them at most (R8, D13). -/
  gapBetween : s.gap ≠ 0 → s.tx.busy = true ∧ s.tx.cnt = 0
  gapLe : s.gap ≤ s.cfg.gIdle
  /-- The line is at mark whenever no frame is in progress (R27). -/
  lineMark : s.tx.busy = false ∨ s.tx.cnt = 0 → s.txd = true

end Sys2Proof.Machine
end

