-- ==== Sys2Proof/Certificates/Slice0/Obligations.lean ====
section
/-! DEFINITION. The statements for the provers. Each docstring names the rule of spec/ it formalises. A statement of
the form exec i s = .next with the whole next state written out is the result, the completion and the frame of the
operation in one: every field it does not list is unchanged, every character of txbuf among them. IDLE is a parameter (R8): where a statement
needs it to differ from the digit counts, the premise 7 ≤ IDLE says that it lies outside 0..6 (the spec's decision D6), as
Config.valid does. W_READING is a parameter too (R8): where a statement gives a captured reading, the premise 24 ≤ W_READING
(V6), 16 ≤ W_READING (V4) says that its N digits fit in it (the spec's decision D5), as Config.valid does. -/

open Sys2Proof Sys2Proof.Machine

/-! ### The 6-digit decoder (40_decoder_v6.md) -/

/-- R122, R126, and R127 (FROZEN: the spec's decision D9): DEC6.IDLE_HOLD, DEC6.HOLD1 to DEC6.HOLD6 and DEC6.FROZEN write
nothing. -/
def Obligations.Dec6HoldingClassesWriteNothing : Prop :=
  ∀ (s : State) (d : Dec6) (sin : Sin6), s.dec = .v6 d → 7 ≤ s.cfg.idle.toNat →
    (d.nextDigit = s.cfg.idle → sin.asserted s.cfg .mup = true →
      exec (.dec6IdleHold sin) s = .next s) ∧
    (d.nextDigit = 6 → exec (.dec6Frozen sin) s = .next s) ∧
    (sin.asserted s.cfg .mup = false →
      (d.nextDigit = 0 → sin.asserted s.cfg .s1 = false → exec (.dec6Hold1 sin) s = .next s) ∧
      (d.nextDigit = 1 → sin.asserted s.cfg .s2 = false → exec (.dec6Hold2 sin) s = .next s) ∧
      (d.nextDigit = 2 → sin.asserted s.cfg .s3 = false → exec (.dec6Hold3 sin) s = .next s) ∧
      (d.nextDigit = 3 → sin.asserted s.cfg .s4 = false → exec (.dec6Hold4 sin) s = .next s) ∧
      (d.nextDigit = 4 → sin.asserted s.cfg .s5 = false → exec (.dec6Hold5 sin) s = .next s) ∧
      (d.nextDigit = 5 → sin.asserted s.cfg .s6 = false → exec (.dec6Hold6 sin) s = .next s))

/-- R123: DEC6.SYNC clears the reading and the decimal marker and expects the first digit. -/
def Obligations.Dec6SyncClearsAndExpectsFirstDigit : Prop :=
  ∀ (s : State) (d : Dec6) (sin : Sin6), s.dec = .v6 d → d.nextDigit = s.cfg.idle →
    sin.asserted s.cfg .mup = false →
    exec (.dec6Sync sin) s = .next { s with dec := .v6 { reading := 0, dp := 0, nextDigit := 0 } }

/-- R124: DEC6.ABORT clears and goes back to Idle from any of the phases 0 to 5, whatever strobe is asserted. -/
def Obligations.Dec6AbortClearsBackToIdle : Prop :=
  ∀ (s : State) (d : Dec6) (sin : Sin6), s.dec = .v6 d → 7 ≤ s.cfg.idle.toNat → d.nextDigit.toNat ≤ 5 →
    sin.asserted s.cfg .mup = true →
    exec (.dec6Abort sin) s = .next { s with dec := .v6 { reading := 0, dp := 0, nextDigit := s.cfg.idle } }

/-- R125: DEC6.CAPTURE1 to DEC6.CAPTURE6 (n + 1 is the digit) shift the digit in, record the decimal index 7 - digit
when DP is asserted and keep it otherwise, and advance. The reading is of W_READING bits, 24 in this family (R21, the spec's
decision D5). -/
def Obligations.Dec6CaptureShiftsDigitIn : Prop :=
  ∀ (n : Fin 6) (s : State) (d : Dec6) (sin : Sin6), s.dec = .v6 d → 7 ≤ s.cfg.idle.toNat →
    24 ≤ s.cfg.wReading6 →
    d.nextDigit = BitVec.ofNat 4 n.val →
    sin.asserted s.cfg .mup = false →
    sin.asserted s.cfg ([.s1, .s2, .s3, .s4, .s5, .s6].get n) = true →
    exec ([.dec6Capture1 sin, .dec6Capture2 sin, .dec6Capture3 sin, .dec6Capture4 sin, .dec6Capture5 sin,
        .dec6Capture6 sin].get n) s =
      .next { s with dec := .v6 {
        reading := (d.reading <<< 4) ||| (digit6 s.cfg sin).setWidth 24
        dp := if sin.asserted s.cfg .dp then BitVec.ofNat 3 (7 - (n.val + 1)) else d.dp
        nextDigit := BitVec.ofNat 4 (n.val + 1) } }

/-- R128: DEC6.STEP is the dispatch, written as the spec's one function; it performs the effect of exactly one class. A
reserved phase is refused (R105). -/
def Obligations.Dec6StepPerformsExactlyOneClass : Prop :=
  ∀ (s : State) (d : Dec6) (sin : Sin6), s.dec = .v6 d →
    exec (.dec6Step sin) s =
      (if d.nextDigit = s.cfg.idle then
        (if sin.asserted s.cfg .mup then exec (.dec6IdleHold sin) s else exec (.dec6Sync sin) s)
      else if d.nextDigit = 6 then exec (.dec6Frozen sin) s
      else if h : d.nextDigit.toNat < 6 then
        (if sin.asserted s.cfg .mup then exec (.dec6Abort sin) s
        else if sin.asserted s.cfg ([.s1, .s2, .s3, .s4, .s5, .s6].get ⟨d.nextDigit.toNat, h⟩) then
          exec ([.dec6Capture1 sin, .dec6Capture2 sin, .dec6Capture3 sin, .dec6Capture4 sin, .dec6Capture5 sin,
            .dec6Capture6 sin].get ⟨d.nextDigit.toNat, h⟩) s
        else exec ([.dec6Hold1 sin, .dec6Hold2 sin, .dec6Hold3 sin, .dec6Hold4 sin, .dec6Hold5 sin,
            .dec6Hold6 sin].get ⟨d.nextDigit.toNat, h⟩) s)
      else .refused .reservedPhase) ∧
    (d.nextDigit.toNat ≤ 6 ∨ d.nextDigit = s.cfg.idle →
      ∃ d', exec (.dec6Step sin) s = .next { s with dec := .v6 d' })

/-- R121, R141: DEC6.RESET and DEC4.RESET put the decoder in its initial Idle state from every phase. -/
def Obligations.DecoderResetFromEveryPhase : Prop :=
  (∀ (s : State) (d : Dec6), s.dec = .v6 d →
    exec .dec6Reset s = .next { s with dec := .v6 { reading := 0, dp := 0, nextDigit := s.cfg.idle } }) ∧
  (∀ (s : State) (d : Dec4), s.dec = .v4 d →
    exec .dec4Reset s = .next { s with dec := .v4 { reading := 0, dp := 0, nextDigit := s.cfg.idle } })

/-! ### The 4-digit decoder (41_decoder_v4.md) -/

/-- R142, R146, and R147 (FROZEN: the spec's decision D9): DEC4.IDLE_HOLD, DEC4.HOLD1 to DEC4.HOLD4 and DEC4.FROZEN write
nothing; the strobes are expected in the order DG1, DG3, DG2, DG4. -/
def Obligations.Dec4HoldingClassesWriteNothing : Prop :=
  ∀ (s : State) (d : Dec4) (sin : Sin4), s.dec = .v4 d → 7 ≤ s.cfg.idle.toNat →
    (d.nextDigit = s.cfg.idle → sin.asserted s.cfg .mup = true →
      exec (.dec4IdleHold sin) s = .next s) ∧
    (d.nextDigit = 4 → exec (.dec4Frozen sin) s = .next s) ∧
    (sin.asserted s.cfg .mup = false →
      (d.nextDigit = 0 → sin.asserted s.cfg .dg1 = false → exec (.dec4Hold1 sin) s = .next s) ∧
      (d.nextDigit = 1 → sin.asserted s.cfg .dg3 = false → exec (.dec4Hold2 sin) s = .next s) ∧
      (d.nextDigit = 2 → sin.asserted s.cfg .dg2 = false → exec (.dec4Hold3 sin) s = .next s) ∧
      (d.nextDigit = 3 → sin.asserted s.cfg .dg4 = false → exec (.dec4Hold4 sin) s = .next s))

/-- R143, R144: DEC4.SYNC and DEC4.ABORT. -/
def Obligations.Dec4SyncAndAbortClear : Prop :=
  ∀ (s : State) (d : Dec4) (sin : Sin4), s.dec = .v4 d → 7 ≤ s.cfg.idle.toNat →
    (d.nextDigit = s.cfg.idle → sin.asserted s.cfg .mup = false →
      exec (.dec4Sync sin) s = .next { s with dec := .v4 { reading := 0, dp := 0, nextDigit := 0 } }) ∧
    (d.nextDigit.toNat ≤ 3 → sin.asserted s.cfg .mup = true →
      exec (.dec4Abort sin) s = .next { s with dec := .v4 { reading := 0, dp := 0, nextDigit := s.cfg.idle } })

/-- R145, R149 (the spec's decisions D7, D8): DEC4.CAPTURE1 to DEC4.CAPTURE4 (k + 1 is the arrival) complete and write one nibble: its place is 0, 2, 1, 3
under LSD_FIRST and 3, 1, 2, 0 under MSD_FIRST, every other nibble keeps its value, dp is not written, and next_digit
advances. -/
def Obligations.Dec4CapturePlacesNibble : Prop :=
  ∀ (k : Fin 4) (s : State) (d : Dec4) (sin : Sin4), s.dec = .v4 d → 7 ≤ s.cfg.idle.toNat →
    16 ≤ s.cfg.wReading4 →
    d.nextDigit = BitVec.ofNat 4 k.val →
    sin.asserted s.cfg .mup = false →
    sin.asserted s.cfg ([.dg1, .dg3, .dg2, .dg4].get k) = true →
    ∃ r : BitVec 16,
      exec ([.dec4Capture1 sin, .dec4Capture2 sin, .dec4Capture3 sin, .dec4Capture4 sin].get k) s =
        .next { s with dec := .v4 { reading := r, dp := d.dp, nextDigit := BitVec.ofNat 4 (k.val + 1) } } ∧
      ∀ j : Fin 4, nibble r j.val =
        if j.val = (match s.cfg.numbering4 with
          | .lsdFirst => [0, 2, 1, 3].get k
          | .msdFirst => [3, 1, 2, 0].get k)
        then digit4 s.cfg sin else nibble d.reading j.val

/-- R148: DEC4.STEP is the dispatch; it performs the effect of exactly one class. A reserved phase is refused (R105, R239; the
spec's decision D6). -/
def Obligations.Dec4StepPerformsExactlyOneClass : Prop :=
  ∀ (s : State) (d : Dec4) (sin : Sin4), s.dec = .v4 d →
    exec (.dec4Step sin) s =
      (if d.nextDigit = s.cfg.idle then
        (if sin.asserted s.cfg .mup then exec (.dec4IdleHold sin) s else exec (.dec4Sync sin) s)
      else if d.nextDigit = 4 then exec (.dec4Frozen sin) s
      else if h : d.nextDigit.toNat < 4 then
        (if sin.asserted s.cfg .mup then exec (.dec4Abort sin) s
        else if sin.asserted s.cfg ([.dg1, .dg3, .dg2, .dg4].get ⟨d.nextDigit.toNat, h⟩) then
          exec ([.dec4Capture1 sin, .dec4Capture2 sin, .dec4Capture3 sin, .dec4Capture4 sin].get
            ⟨d.nextDigit.toNat, h⟩) s
        else exec ([.dec4Hold1 sin, .dec4Hold2 sin, .dec4Hold3 sin, .dec4Hold4 sin].get ⟨d.nextDigit.toNat, h⟩) s)
      else .refused .reservedPhase) ∧
    (d.nextDigit.toNat ≤ 4 ∨ d.nextDigit = s.cfg.idle →
      ∃ d', exec (.dec4Step sin) s = .next { s with dec := .v4 d' })

/-! ### Laws of the decoders -/

/-- R105: a decoder step from a reserved phase, every value above 6 in V6 and above 4 in V4 but IDLE (by default 7 to 14 and 5
to 14), is refused. -/
def Obligations.ReservedPhaseIsRefused : Prop :=
  (∀ (s : State) (d : Dec6) (sin : Sin6), s.dec = .v6 d → 7 ≤ d.nextDigit.toNat → d.nextDigit ≠ s.cfg.idle →
    exec (.dec6Step sin) s = .refused .reservedPhase ∧ exec .seqStep s = .refused .reservedPhase) ∧
  (∀ (s : State) (d : Dec4) (sin : Sin4), s.dec = .v4 d → 5 ≤ d.nextDigit.toNat → d.nextDigit ≠ s.cfg.idle →
    exec (.dec4Step sin) s = .refused .reservedPhase ∧ exec .seqStep s = .refused .reservedPhase)

/-- The model's own choice (log 10): a class operation that the dispatch does not select in the decoder's phase is refused. -/
def Obligations.UnselectedClassIsRefused : Prop :=
  (∀ (s : State) (d : Dec6) (sin : Sin6) (c c' : Class6), s.dec = .v6 d →
    classify6 s.cfg d.nextDigit sin = some c' → c ≠ c' →
    exec (c.instr sin) s = .refused .notSelected) ∧
  (∀ (s : State) (d : Dec4) (sin : Sin4) (c c' : Class4), s.dec = .v4 d →
    classify4 s.cfg d.nextDigit sin = some c' → c ≠ c' →
    exec (c.instr sin) s = .refused .notSelected)

/-- The model's own choice (log 9): an operation of the other device family is refused. -/
def Obligations.OtherFamilyIsRefused : Prop :=
  (∀ (s : State) (d : Dec4) (sin : Sin6) (c : Class6) (r : BitVec 24) (p : BitVec 3), s.dec = .v4 d →
    exec (c.instr sin) s = .refused .otherVariant ∧ exec (.dec6Step sin) s = .refused .otherVariant ∧
    exec .dec6Reset s = .refused .otherVariant ∧ exec (.fmt6 r p sin) s = .refused .otherVariant) ∧
  (∀ (s : State) (d : Dec6) (sin : Sin4) (c : Class4) (r : BitVec 16), s.dec = .v6 d →
    exec (c.instr sin) s = .refused .otherVariant ∧ exec (.dec4Step sin) s = .refused .otherVariant ∧
    exec .dec4Reset s = .refused .otherVariant ∧ exec (.fmt4 r) s = .refused .otherVariant)

/-- R130: a repeated call with the same word changes nothing unless the first call left a capturing phase k and the word has
MUP = 0 and S(k+1) = 1; then it captures. That happens only after a SYNC or a capture. -/
def Obligations.Dec6RepeatedWordLaw : Prop :=
  ∀ (s t u : State) (d d' : Dec6) (sin : Sin6), s.dec = .v6 d → 7 ≤ s.cfg.idle.toNat → t.dec = .v6 d' →
    exec (.dec6Step sin) s = .next t → exec (.dec6Step sin) t = .next u →
    (u ≠ t ↔ ∃ h : d'.nextDigit.toNat < 6, sin.asserted s.cfg .mup = false ∧
      sin.asserted s.cfg (strobe6 ⟨d'.nextDigit.toNat, h⟩) = true) ∧
    (u ≠ t →
      (d.nextDigit = s.cfg.idle ∧ d'.nextDigit = 0 ∧ sin.asserted s.cfg .s1 = true) ∨
      (∃ (h : d.nextDigit.toNat < 6), d'.nextDigit.toNat = d.nextDigit.toNat + 1 ∧
        sin.asserted s.cfg (strobe6 ⟨d.nextDigit.toNat, h⟩) = true))

/-- R151: the repeated-call law of V4, with the expected strobe in the order of arrival. -/
def Obligations.Dec4RepeatedWordLaw : Prop :=
  ∀ (s t u : State) (d' : Dec4) (sin : Sin4), t.dec = .v4 d' → 7 ≤ s.cfg.idle.toNat →
    exec (.dec4Step sin) s = .next t → exec (.dec4Step sin) t = .next u →
    (u ≠ t ↔ ∃ h : d'.nextDigit.toNat < 4, sin.asserted s.cfg .mup = false ∧
      sin.asserted s.cfg (strobe4 ⟨d'.nextDigit.toNat, h⟩) = true)

/-- R131 (1): the step that sees MUP asserted before completion leaves the initial Idle state, in both families. -/
def Obligations.UpdateLineAbortsIncompleteReading : Prop :=
  (∀ (s : State) (d : Dec6) (sin : Sin6), s.dec = .v6 d → 7 ≤ s.cfg.idle.toNat → d.Reachable s.cfg → d.nextDigit ≠ 6 →
    sin.asserted s.cfg .mup = true →
    exec (.dec6Step sin) s = .next { s with dec := .v6 { reading := 0, dp := 0, nextDigit := s.cfg.idle } }) ∧
  (∀ (s : State) (d : Dec4) (sin : Sin4), s.dec = .v4 d → 7 ≤ s.cfg.idle.toNat → d.Reachable s.cfg → d.nextDigit ≠ 4 →
    sin.asserted s.cfg .mup = true →
    exec (.dec4Step sin) s = .next { s with dec := .v4 { reading := 0, dp := 0, nextDigit := s.cfg.idle } })

/-- R129, R131 (2), (3): six steps on words that show S1 to S6 in order with MUP de-asserted complete the decoder; the
reading is the big-endian packing of the six digits, and the decimal index is that of the last word with DP, 0 if none. -/
def Obligations.Sweep6PacksDigitsInOrder : Prop :=
  ∀ (s : State) (w : Fin 6 → Sin6), 7 ≤ s.cfg.idle.toNat → 24 ≤ s.cfg.wReading6 →
    s.dec = .v6 { reading := 0, dp := 0, nextDigit := 0 } →
    (∀ n, (w n).asserted s.cfg .mup = false ∧ (w n).asserted s.cfg (strobe6 n) = true) →
    ∃ d : Dec6,
      runOps [.dec6Step (w 0), .dec6Step (w 1), .dec6Step (w 2), .dec6Step (w 3), .dec6Step (w 4), .dec6Step (w 5)] s =
        .next { s with dec := .v6 d } ∧
      d.nextDigit = 6 ∧
      d.reading.toNat =
        (digit6 s.cfg (w 0)).toNat * 16 ^ 5 + (digit6 s.cfg (w 1)).toNat * 16 ^ 4 +
        (digit6 s.cfg (w 2)).toNat * 16 ^ 3 + (digit6 s.cfg (w 3)).toNat * 16 ^ 2 +
        (digit6 s.cfg (w 4)).toNat * 16 + (digit6 s.cfg (w 5)).toNat ∧
      d.dp =
        if (w 5).asserted s.cfg .dp then 1
        else if (w 4).asserted s.cfg .dp then 2
        else if (w 3).asserted s.cfg .dp then 3
        else if (w 2).asserted s.cfg .dp then 4
        else if (w 1).asserted s.cfg .dp then 5
        else if (w 0).asserted s.cfg .dp then 6
        else 0

/-- R149, R151 (the spec's decisions D7, D8): four steps on words that show DG1, DG3, DG2, DG4 in that order complete the V4 decoder; the arrivals fill
nibbles 0, 2, 1, 3 under LSD_FIRST and 3, 1, 2, 0 under MSD_FIRST, and dp is 0. -/
def Obligations.Sweep4PlacesNibblesByStrobe : Prop :=
  ∀ (s : State) (w : Fin 4 → Sin4), 7 ≤ s.cfg.idle.toNat → 16 ≤ s.cfg.wReading4 →
    s.dec = .v4 { reading := 0, dp := 0, nextDigit := 0 } →
    (∀ k, (w k).asserted s.cfg .mup = false ∧
      (w k).asserted s.cfg ([.dg1, .dg3, .dg2, .dg4].get k) = true) →
    ∃ d : Dec4,
      runOps [.dec4Step (w 0), .dec4Step (w 1), .dec4Step (w 2), .dec4Step (w 3)] s = .next { s with dec := .v4 d } ∧
      d.nextDigit = 4 ∧ d.dp = 0 ∧
      (s.cfg.numbering4 = .lsdFirst →
        nibble d.reading 0 = digit4 s.cfg (w 0) ∧ nibble d.reading 2 = digit4 s.cfg (w 1) ∧
        nibble d.reading 1 = digit4 s.cfg (w 2) ∧ nibble d.reading 3 = digit4 s.cfg (w 3)) ∧
      (s.cfg.numbering4 = .msdFirst →
        nibble d.reading 3 = digit4 s.cfg (w 0) ∧ nibble d.reading 1 = digit4 s.cfg (w 1) ∧
        nibble d.reading 2 = digit4 s.cfg (w 2) ∧ nibble d.reading 0 = digit4 s.cfg (w 3))

/-- R129: next_digit moves only IDLE to 0, k to k+1, k to IDLE with k capturing, or to IDLE by a reset; whichever operation of
the block runs. The same in V4 (R151). -/
def Obligations.NextDigitMovesOnlyByTheRules : Prop :=
  ∀ (i : Instr) (s t : State), exec i s = .next t →
    t.dec.nextDigit = s.dec.nextDigit ∨
    (s.dec.nextDigit = s.cfg.idle ∧ t.dec.nextDigit = 0) ∨
    (s.dec.capturing = true ∧ t.dec.nextDigit.toNat = s.dec.nextDigit.toNat + 1) ∨
    (s.dec.capturing = true ∧ t.dec.nextDigit = s.cfg.idle) ∨
    (i ∈ [Instr.dec6Reset, .dec4Reset, .seqInit, .seqRearm, .wdtReset] ∧ t.dec.nextDigit = s.cfg.idle)

/-- R25, R260: a complete decoder is changed by no operation but an explicit reset. -/
def Obligations.CompleteReadingIsFrozen : Prop :=
  ∀ (i : Instr) (s t : State), 7 ≤ s.cfg.idle.toNat → s.dec.complete = true → exec i s = .next t →
    i ∉ [Instr.dec6Reset, .dec4Reset, .seqInit, .seqRearm, .wdtReset] → t.dec = s.dec

/-! ### Encodings (30_encoding.md) -/

/-- R100, R104: for every class row of the table, decoding the word of a well-formed operation in a phase of its row gives the
operation back, in every configuration. -/
def Obligations.DecodeEncodeAgree : Prop :=
  ∀ (c : Config) (i : Instr) (w : Word) (r : Row) (p : BitVec 4),
    7 ≤ c.idle.toNat → i.wellFormed c = true → encode i = some w → tableRow c.idle i = some r → p ∈ r.phases →
    decode c r.variant p w = .ok i

/-- R100: under the default configuration, a step in a phase performs a class exactly when the phase is of the class's table row
and the word meets the row's mask and match, and in every unreserved phase every word selects some class; so the rows of one
phase neither overlap nor leave a word out. -/
def Obligations.TableRowsSelectTheClass : Prop :=
  (∀ (c : Class6) (p : BitVec 4) (w : Word) (r : Row), tableRow Config.default.idle (c.instr ⟨w⟩) = some r →
    (classify6 Config.default p ⟨w⟩ = some c ↔ p ∈ r.phases ∧ w &&& r.mask = r.pattern)) ∧
  (∀ (c : Class4) (p : BitVec 4) (w : Word) (r : Row), tableRow Config.default.idle (c.instr ⟨w⟩) = some r →
    (classify4 Config.default p ⟨w⟩ = some c ↔ p ∈ r.phases ∧ w &&& r.mask = r.pattern)) ∧
  (∀ (p : BitVec 4) (w : Word), p.toNat ≤ 6 ∨ p = 15 → ∃ c, classify6 Config.default p ⟨w⟩ = some c) ∧
  (∀ (p : BitVec 4) (w : Word), p.toNat ≤ 4 ∨ p = 15 → ∃ c, classify4 Config.default p ⟨w⟩ = some c)

/-- R104 (the spec's decisions D2, D3): the reserved bits are bit 15 in SIN6 and bits 15 to 9 in SIN4; a word with a reserved
bit set is treated as the same word with the bit cleared, by the decoder, by a decoder step, by a class row and by FMT6; and
the sampler gives no word with a reserved bit set. -/
def Obligations.ReservedBitsAreIgnored : Prop :=
  (∀ (c : Config) (p : BitVec 4) (w : Word),
    decode c .v6 p w = decode c .v6 p (w &&& c.mask6) ∧
    decode c .v4 p w = decode c .v4 p (w &&& c.mask4)) ∧
  (∀ (s : State) (w : Word),
    exec (.dec6Step ⟨w⟩) s = exec (.dec6Step ⟨w &&& s.cfg.mask6⟩) s ∧
    exec (.dec4Step ⟨w⟩) s = exec (.dec4Step ⟨w &&& s.cfg.mask4⟩) s ∧
    (∀ c : Class6, exec (c.instr ⟨w⟩) s = exec (c.instr ⟨w &&& s.cfg.mask6⟩) s) ∧
    (∀ c : Class4, exec (c.instr ⟨w⟩) s = exec (c.instr ⟨w &&& s.cfg.mask4⟩) s) ∧
    ∀ r p, exec (.fmt6 r p ⟨w⟩) s = exec (.fmt6 r p ⟨w &&& s.cfg.mask6⟩) s) ∧
  (∀ s t : State, exec .seqSample s = .next t → t.seq.sample &&& s.sinMask = t.seq.sample) ∧
  (∀ s t : State, exec .seqAux s = .next t → t.seq.aux &&& s.sinMask = t.seq.aux) ∧
  Config.default.mask6 = 0x7FFF ∧ Config.default.mask4 = 0x01FF

/-- R81, R83, R85 (the spec's decisions D2, D3, D35): the fields of a sampled word under the default layouts. -/
def Obligations.DefaultLayoutFields : Prop :=
  (∀ w : Word,
    digit6 Config.default ⟨w⟩ = BitVec.ofNat 4 w ∧
    (∀ n : Fin 6, Sin6.asserted Config.default ⟨w⟩ (strobe6 n) = w.testBit (4 + n.val)) ∧
    Sin6.asserted Config.default ⟨w⟩ .dp = w.testBit 10 ∧ Sin6.asserted Config.default ⟨w⟩ .mup = w.testBit 11 ∧
    Sin6.asserted Config.default ⟨w⟩ .ovf = w.testBit 12 ∧ Sin6.asserted Config.default ⟨w⟩ .rng = w.testBit 13 ∧
    Sin6.asserted Config.default ⟨w⟩ .nml = w.testBit 14 ∧ w &&& Config.default.mask6 = w &&& 0x7FFF) ∧
  (∀ w : Word,
    digit4 Config.default ⟨w⟩ = BitVec.ofNat 4 w ∧
    Sin4.asserted Config.default ⟨w⟩ .dg1 = w.testBit 4 ∧ Sin4.asserted Config.default ⟨w⟩ .dg2 = w.testBit 5 ∧
    Sin4.asserted Config.default ⟨w⟩ .dg3 = w.testBit 6 ∧ Sin4.asserted Config.default ⟨w⟩ .dg4 = w.testBit 7 ∧
    Sin4.asserted Config.default ⟨w⟩ .mup = w.testBit 8 ∧ w &&& Config.default.mask4 = w &&& 0x01FF)

/-- Sanity: words written out from R81 and R83 decode to the classes of the source's scenarios (95 T1 to T3). -/
def Obligations.ScenarioWordsDecode : Prop :=
  decode Config.default .v6 15 0x0800 = .ok (.dec6IdleHold ⟨0x0800⟩) ∧
  decode Config.default .v6 15 0x0000 = .ok (.dec6Sync ⟨0x0000⟩) ∧
  decode Config.default .v6 0 0x0011 = .ok (.dec6Capture1 ⟨0x0011⟩) ∧
  decode Config.default .v6 3 0x0484 = .ok (.dec6Capture4 ⟨0x0484⟩) ∧
  decode Config.default .v6 1 0x0011 = .ok (.dec6Hold2 ⟨0x0011⟩) ∧
  decode Config.default .v6 2 0x0843 = .ok (.dec6Abort ⟨0x0843⟩) ∧
  decode Config.default .v6 6 0x0800 = .ok (.dec6Frozen ⟨0x0800⟩) ∧
  decode Config.default .v6 9 0x0000 = .error .reservedPhase ∧
  decode Config.default .v4 1 0x0040 = .ok (.dec4Capture2 ⟨0x0040⟩) ∧
  decode Config.default .v4 3 0x0186 = .ok (.dec4Abort ⟨0x0186⟩) ∧
  decode Config.default .v4 0 0x0086 = .ok (.dec4Hold1 ⟨0x0086⟩)

/-! ### One step -/

/-- R70, R200, R163, R229, R233: whose turn it is, and the operation that turn performs. The main thread's is the action at the
sequencer's place while the transmitter is not busy; a line change is IRQ.EDGE; the handler runs when something is pending;
the bit clock ticks while a frame is on the line; the watchdog fires where it is enabled. The model's choices: the turn is the
head of the schedule and past its end a free value, and a turn whose trigger does not hold passes (log 3); TX.LOAD is a
bit-clock turn of its own after a frame (log 17), and the bit clock's turns in the gap before it only use the gap up
(log 30). -/
def Obligations.StepRunsTheOperationOfItsTurn : Prop :=
  ∀ s : State,
    (∀ u ts, s.env.turns = u :: ts → s.turn = u ∧ s.afterTurn = { s with env := { s.env with turns := ts } }) ∧
    (s.env.turns = [] → s.turn = Config.freeTurn s.env.draws ∧
      s.afterTurn = { s with env := { s.env with draws := s.env.draws + 1 } }) ∧
    (s.turn = .main →
      (s.tx.busy = false → step s = exec (match s.seq.pos with
        | .init => .seqInit | .arm => .seqArm | .sleep => .seqSleep | .wake => .seqWake | .sample => .seqSample
        | .step => .seqStep | .aux => .seqAux | .format => .seqFormat | .transmit => .seqTransmit
        | .rearm => .seqRearm) s.afterTurn) ∧
      (s.tx.busy = true → step s = .next s.afterTurn)) ∧
    (∀ l, s.turn = .edge l → step s = exec (.irqEdge l) s.afterTurn) ∧
    (s.turn = .irq → step s = if s.ifg = noLines then .next s.afterTurn else exec .irqHandle s.afterTurn) ∧
    (s.turn = .bitClock →
      step s = if s.tx.busy = false then .next s.afterTurn
        else if s.tx.cnt ≠ 0 then exec .txTick s.afterTurn
        else if s.gap = 0 then exec .txLoad s.afterTurn
        else .next { s.afterTurn with gap := s.gap - 1 }) ∧
    (s.turn = .watchdog → step s = if s.wdtEnabled then exec .wdtReset s.afterTurn else .next s.afterTurn)

/-- The sampled word is the instruction word of a decoder step (R9): on the main thread's turn at SEQ.STEP, if the decoder reads
the operation i from the sample in the decoder's phase, the step is exec of i, and then the loop goes on at SEQ.AUX if the
decoder is complete and at SEQ.ARM if not (R200). -/
def Obligations.StepRunsTheDecodedSample : Prop :=
  ∀ (s : State) (i : Instr), s.turn = .main → s.seq.pos = .step → s.tx.busy = false →
    decode s.cfg s.variant s.dec.nextDigit s.seq.sample = .ok i →
    step s = match exec i s.afterTurn with
      | .next t => .next { t with seq := { t.seq with pos := if t.dec.complete then .aux else .arm } }
      | .fault r => .fault r
      | .refused r => .refused r

/-! ### The transmitter (42_transmitter.md) -/

/-- R161, R162 (the spec's decisions D12, D14): TX.SEND of an idle transmitter on a terminated buffer resets the framing hardware
and loads the first character's frame; an empty text goes straight to done. The gap is empty (the model's choice, log 30). -/
def Obligations.TxSendStartsTheFirstFrame : Prop :=
  ∀ (s : State) (c : Byte) (n : Nat), s.tx.busy = false → n < s.txbufLen → s.txbuf.read n = some 0 →
    s.txbuf.read 0 = some c →
    exec .txSend s = if c = 0
      then .next { s with tx := { busy := false, sr := 0x1FF, cnt := 0, idx := 0 }, txd := true, gap := 0 }
      else .next { s with
        tx := { busy := true, sr := (0x100 : BitVec 9) ||| ((c.setWidth 7).setWidth 9 <<< 1), cnt := 9, idx := 0 }, txd := true, gap := 0 }

/-- R161, R168 (the spec's decision D14): TX.SEND is refused while busy, and on a buffer that holds no 0x00. Where both hold it is
the busy refusal (the model's choice, log 28). -/
def Obligations.TxSendRefusals : Prop :=
  ∀ s : State,
    (s.tx.busy = true → exec .txSend s = .refused .txBusy) ∧
    (s.tx.busy = false → (∀ i < s.txbufLen, s.txbuf.read i ≠ some 0) → exec .txSend s = .refused .noTerminator)

/-- R162 (the spec's decisions D12, D14, D15): TX.LOAD loads stop, seven data bits and start of the next character, is TX.DONE at the terminator, and is refused at
the end of the buffer and beyond it (R61). A character nothing has written stops by name (the model's choice, log 6). -/
def Obligations.TxLoadFramesNextCharacter : Prop :=
  ∀ s : State,
    (∀ c, s.tx.idx.toNat < s.txbufLen → s.txbuf.read s.tx.idx.toNat = some c →
      exec .txLoad s = if c = 0
        then .next { s with tx := { s.tx with busy := false }, txd := true }
        else .next { s with tx := { s.tx with sr := (0x100 : BitVec 9) ||| ((c.setWidth 7).setWidth 9 <<< 1), cnt := 9 } }) ∧
    (s.tx.idx.toNat = s.txbufLen → exec .txLoad s = .refused .noTerminator) ∧
    (s.txbufLen < s.tx.idx.toNat → exec .txLoad s = .refused .outOfBuffer) ∧
    (s.tx.idx.toNat < s.txbufLen → s.txbuf.read s.tx.idx.toNat = none → exec .txLoad s = .fault .unwrittenChar)

/-- R163 (the spec's decision D12): TX.TICK drives bit 0 on the line and the wire trace, shifts a mark in, counts, and moves to the
next character with the stop bit, where the G_IDLE bit times before a further character begin (R8; how they are counted is
the model's choice, log 30). At index 15 the four bits wrap to 0, which R24 says never happens on a terminated text: the
index there, and the gap that it decides, are the model's choice (log 29). Where it is not enabled it is refused by name (the
model's choice, log 11). -/
def Obligations.TxTickDrivesOneBit : Prop :=
  ∀ s : State,
    (s.tx.busy = true → s.tx.cnt ≠ 0 →
      exec .txTick s = .next { s with
        txd := s.tx.sr.getLsbD 0
        wire := s.wire ++ [s.tx.sr.getLsbD 0]
        gap := if s.tx.cnt - 1 = 0 then
            (if s.txbuf.read (s.tx.idx + 1).toNat = some 0 then 0 else s.cfg.gIdle) else s.gap
        tx := { busy := true, sr := (0x100 : BitVec 9) ||| (s.tx.sr >>> 1), cnt := s.tx.cnt - 1,
                idx := if s.tx.cnt - 1 = 0 then s.tx.idx + 1 else s.tx.idx } }) ∧
    (s.tx.busy = false ∨ s.tx.cnt = 0 → exec .txTick s = .refused .notEnabled)

/-- R164: TX.DONE clears busy and leaves the line at mark, and nothing else. -/
def Obligations.TxDoneReleasesTheLine : Prop :=
  ∀ s : State, exec .txDone s = .next { s with tx := { s.tx with busy := false }, txd := true }

/-- R165 (derived in the spec from R162 and R163): one TX.LOAD of a character followed by nine TX.TICKs appends exactly its frame to the wire trace.
The G_IDLE bit times before a further character begin (R8, D13; the model's choice, log 30). In a buffer of 16 characters the
index after character 15 wraps to 0, which R24 says never happens on a terminated text: that index, and the gap read there,
are the model's choice (log 29). -/
def Obligations.OneFrameOnTheWire : Prop :=
  ∀ (s : State) (c : Byte), s.tx.busy = true → s.tx.idx.toNat < s.txbufLen →
    s.txbuf.read s.tx.idx.toNat = some c → c ≠ 0 →
    runOps (.txLoad :: List.replicate 9 .txTick) s = .next { s with
      tx := { busy := true, sr := 0x1FF, cnt := 0, idx := s.tx.idx + 1 }
      txd := true
      gap := if s.txbuf.read (s.tx.idx + 1).toNat = some 0 then 0 else s.cfg.gIdle
      wire := s.wire ++ [false, c.getLsbD 0, c.getLsbD 1, c.getLsbD 2, c.getLsbD 3, c.getLsbD 4, c.getLsbD 5,
        c.getLsbD 6, true] }

/-- R166 (derived in the spec from R161 to R165): a terminated text with no 0x00 before its terminator, sent by TX.SEND and ten
bit-clock steps a character (nine ticks and a load, which is a step of its own by the model's choice, log 17) and G_IDLE more
between two characters (log 30), puts the frames of its characters on the wire in order and leaves the transmitter idle. -/
def Obligations.TransmissionPutsTheTextOnTheWire : Prop :=
  ∀ (s : State) (cs : List Byte), s.cfg.valid = true → s.tx.busy = false → cs.length < s.txbufLen →
    (∀ (i : Nat) (h : i < cs.length), s.txbuf.read i = some cs[i] ∧ cs[i] ≠ 0) →
    s.txbuf.read cs.length = some 0 →
    ∃ t, exec .txSend s = .next t ∧
      ∀ rest, runSteps (10 * cs.length + s.cfg.gIdle * (cs.length - 1))
          { t with env := { t.env with turns := List.replicate (10 * cs.length + s.cfg.gIdle * (cs.length - 1)) .bitClock ++ rest } } =
        .next { s with
          tx := { busy := false, sr := 0x1FF, cnt := 0, idx := BitVec.ofNat 4 cs.length }
          txd := true
          gap := 0
          wire := s.wire ++ cs.flatMap frameLevels
          env := { s.env with turns := rest } }

/-- R166, R163: no operation but TX.TICK adds to the wire trace, and it adds the one level it drives; txd is written by the
transmitter's operations, SEQ.TRANSMIT (which issues TX.SEND) and the reset alone. -/
def Obligations.OnlyTheTransmitterDrivesTheLine : Prop :=
  ∀ (i : Instr) (s t : State), exec i s = .next t →
    (t.wire = s.wire ∨ (i = .txTick ∧ t.wire = s.wire ++ [t.txd])) ∧
    (i ∉ [Instr.txSend, .txLoad, .txTick, .txDone, .seqTransmit, .wdtReset] → t.txd = s.txd ∧ t.tx = s.tx ∧ t.gap = s.gap)

/-! ### The formatter (43_formatter.md) -/

/-- R181, R182, R183, R184 (the spec's decisions D21, D22, D24, D25): FMT6 writes the indicator, the six digits with exactly dp of
them after the point, the unit when there is a point ("ms" for NML alone), CR, LF and 0x00; the glyph of a nibble above 9 is
a free value. The model's choices: every index past the 0x00 has no value (log 6), each free glyph has a draw number of its
own (log 5), and a decimal index of 7 stops by name (log 13). -/
def Obligations.Fmt6WritesTheLine : Prop :=
  (∀ (s : State) (d : Dec6) (r : BitVec 24) (aux : Sin6), s.dec = .v6 d →
    exec (.fmt6 r 7 aux) s = .refused .illegalDp) ∧
  ∀ (s : State) (d : Dec6) (r : BitVec 24) (p : BitVec 3) (aux : Sin6), s.dec = .v6 d → s.cfg.valid = true →
    p.toNat ≤ 6 →
    ∃ m : Memory,
      exec (.fmt6 r p aux) s =
        .next { s with txbuf := m, env := { s.env with draws := s.env.draws + 6 } } ∧
      ∀ i, m.read i =
        (let g : Nat → Byte := fun j =>
          if (r.extractLsb' (4 * (6 - j)) 4).toNat ≤ 9 then 0x30 + (r.extractLsb' (4 * (6 - j)) 4).setWidth 8
          else (Config.freeGlyph (s.env.draws + (j - 1))).setWidth 8
        let gs : List Byte := [g 1, g 2, g 3, g 4, g 5, g 6]
        let unit : List Byte :=
          if aux.asserted s.cfg .nml then
            (if aux.asserted s.cfg .rng then s.cfg.unit6.rng1nml1.map (·.setWidth 8) else [0x6D, 0x73])
          else (if aux.asserted s.cfg .rng then s.cfg.unit6.rng1nml0.map (·.setWidth 8)
            else s.cfg.unit6.rng0nml0.map (·.setWidth 8))
        (if aux.asserted s.cfg .ovf then s.cfg.ovfGlyph.setWidth 8 else 0x20) ::
          ((if p = 0 then gs else gs.take (6 - p.toNat) ++ 0x2E :: gs.drop (6 - p.toNat)) ++
            (if p = 0 then [] else unit) ++ [0x0D, 0x0A, 0x00]))[i]?

/-- R185, R182 (the spec's decisions D21, D24, D26): FMT4 writes the indicator, the sign, the half digit, three digits, CR, LF and
0x00. The model's choices: every index past the 0x00 has no value (log 6), and each free glyph has a draw number of its own
(log 5). -/
def Obligations.Fmt4WritesTheLine : Prop :=
  ∀ (s : State) (d : Dec4) (r : BitVec 16), s.dec = .v4 d → s.cfg.valid = true →
    ∃ m : Memory,
      exec (.fmt4 r) s =
        .next { s with txbuf := m, env := { s.env with draws := s.env.draws + 3 } } ∧
      ∀ i, m.read i =
        (let g : Nat → Byte := fun j =>
          if (r.extractLsb' (4 * (3 - j)) 4).toNat ≤ 9 then 0x30 + (r.extractLsb' (4 * (3 - j)) 4).setWidth 8
          else (Config.freeGlyph (s.env.draws + (j - 1))).setWidth 8
        [(if r.getLsbD (12 + s.cfg.ovfBit.val) then s.cfg.ovfGlyph.setWidth 8 else (0x20 : Byte)),
          (if r.getLsbD (12 + s.cfg.polBit.val) then 0x2B else 0x2D),
          (if r.getLsbD (12 + s.cfg.oneBit.val) then 0x31 else 0x20),
          g 1, g 2, g 3, 0x0D, 0x0A, 0x00])[i]?

/-- R186, R187: whatever the operands and the free glyphs, a formatter's line is inside the buffer, terminated by CR, LF and 0x00,
and every character written is 7-bit ASCII. Past the 0x00 no index has a value, and the buffer is in canonical form (the
model's choice, log 6). -/
def Obligations.FormattedLineIsTerminatedAscii : Prop :=
  ∀ (i : Instr) (s t : State), s.cfg.valid = true →
    (∃ r p aux, i = .fmt6 r p aux) ∨ (∃ r, i = .fmt4 r) → exec i s = .next t →
    ∃ n, n < t.txbufLen ∧ 2 ≤ n ∧ t.txbuf.read n = some 0 ∧ t.txbuf.read (n - 1) = some 0x0A ∧
      t.txbuf.read (n - 2) = some 0x0D ∧ (∀ j, n < j → t.txbuf.read j = none) ∧
      (∀ j ≤ n, ∃ c, t.txbuf.read j = some c ∧ c.getLsbD 7 = false) ∧ Memory.wf t.txbuf = true

/-! ### The sequencer (44_sequencer.md) -/

/-- R201 (arming the watchdog: the spec's decision D17) and R210: SEQ.INIT resets the decoder and arms the watchdog; SEQ.REARM
resets the decoder; both go on at SEQ.ARM. -/
def Obligations.SeqInitAndRearmResetTheDecoder : Prop :=
  ∀ (s : State) (d' : Decoder),
    d' = (match s.dec with
      | .v6 _ => .v6 { reading := 0, dp := 0, nextDigit := s.cfg.idle }
      | .v4 _ => .v4 { reading := 0, dp := 0, nextDigit := s.cfg.idle }) →
    exec .seqInit s = .next { s with dec := d', wdtArmed := true, seq := { s.seq with pos := .arm } } ∧
    exec .seqRearm s = .next { s with dec := d', seq := { s.seq with pos := .arm } }

/-- R202 (the spec's decision D18): SEQ.ARM arms a set that contains MUP and, in a capturing phase, the expected strobe; what else it contains is free.
It writes nothing else. R202 gives a complete decoder no relevant lines: there the armed set is free (the model's choice, log
12); a reserved phase is refused (R105). -/
def Obligations.SeqArmArmsTheRelevantLines : Prop :=
  (∀ (s : State) (d : Dec6), s.dec = .v6 d → 7 ≤ s.cfg.idle.toNat → d.nextDigit = s.cfg.idle ∨ d.nextDigit.toNat ≤ 5 →
    ∃ armed : LineSet,
      exec .seqArm s = .next { s with
        ie := armed, seq := { s.seq with pos := .sleep }, env := { s.env with draws := s.env.draws + 1 } } ∧
      lineIn (.v6 .mup) armed = true ∧
      ∀ n : Fin 6, d.nextDigit = BitVec.ofNat 4 n.val →
        lineIn (.v6 ([.s1, .s2, .s3, .s4, .s5, .s6].get n)) armed = true) ∧
  (∀ (s : State) (d : Dec4), s.dec = .v4 d → 7 ≤ s.cfg.idle.toNat → d.nextDigit = s.cfg.idle ∨ d.nextDigit.toNat ≤ 3 →
    ∃ armed : LineSet,
      exec .seqArm s = .next { s with
        ie := armed, seq := { s.seq with pos := .sleep }, env := { s.env with draws := s.env.draws + 1 } } ∧
      lineIn (.v4 .mup) armed = true ∧
      ∀ k : Fin 4, d.nextDigit = BitVec.ofNat 4 k.val →
        lineIn (.v4 ([.dg1, .dg3, .dg2, .dg4].get k)) armed = true) ∧
  (∀ (s : State), s.dec.complete = true → ∃ armed : LineSet,
    exec .seqArm s = .next { s with
      ie := armed, seq := { s.seq with pos := .sleep }, env := { s.env with draws := s.env.draws + 1 } }) ∧
  (∀ (s : State), s.dec.complete = false → s.dec.capturing = false → s.dec.nextDigit ≠ s.cfg.idle →
    exec .seqArm s = .refused .reservedPhase)

/-- R203: SEQ.SLEEP with awake = 1 returns at once and clears the flag; with awake = 0 the core sleeps. How the wait is taken is the
model's choice (log 24): the sequencer stays at SEQ.SLEEP and tests again, so a sleeping core that nothing wakes repeats its
state (R266). -/
def Obligations.SeqSleepWaitsForTheFlag : Prop :=
  ∀ s : State,
    (s.awake = true → exec .seqSleep s =
      .next { s with awake := false, seq := { s.seq with asleep := false, pos := .wake } }) ∧
    (s.awake = false → exec .seqSleep s = .next { s with seq := { s.seq with asleep := true } }) ∧
    (s.awake = false → s.seq.asleep = true → exec .seqSleep s = .next s)

/-- R204, R205, R62 (the spec's decisions D4, D17): SEQ.WAKE changes no state but the loop's place; SEQ.SAMPLE takes the environment's word with the reserved
bits 0, and consumes it. -/
def Obligations.SeqWakeAndSample : Prop :=
  ∀ s : State,
    exec .seqWake s = .next { s with seq := { s.seq with pos := .sample } } ∧
    (∀ w ws, s.env.samples = w :: ws → exec .seqSample s = .next { s with
      seq := { s.seq with
        pos := .step, sample := w &&& (match s.dec with
          | .v6 _ => s.cfg.mask6
          | .v4 _ => s.cfg.mask4) }
      env := { s.env with samples := ws } }) ∧
    (s.env.samples = [] → ∃ w : Word, exec .seqSample s = .next { s with
      seq := { s.seq with
        pos := .step, sample := w &&& (match s.dec with
          | .v6 _ => s.cfg.mask6
          | .v4 _ => s.cfg.mask4) }
      env := { s.env with draws := s.env.draws + 1 } })

/-- R206, R200: SEQ.STEP is DEC.STEP on the sampled word, exactly once, and then the loop goes on at SEQ.AUX if the decoder is
complete and at SEQ.ARM if not (R200; seq.pos is the model's, read from the spec by inference, log 8). In every phase but the
reserved ones it completes. -/
def Obligations.SeqStepIsOneDecoderStep : Prop :=
  (∀ (s : State) (d : Dec6), s.dec = .v6 d → d.nextDigit.toNat ≤ 6 ∨ d.nextDigit = s.cfg.idle →
    ∃ t, exec (.dec6Step ⟨s.seq.sample⟩) s = .next t ∧
      exec .seqStep s =
        .next { t with seq := { t.seq with pos := if t.dec.nextDigit = 6 then .aux else .arm } }) ∧
  (∀ (s : State) (d : Dec4), s.dec = .v4 d → d.nextDigit.toNat ≤ 4 ∨ d.nextDigit = s.cfg.idle →
    ∃ t, exec (.dec4Step ⟨s.seq.sample⟩) s = .next t ∧
      exec .seqStep s =
        .next { t with seq := { t.seq with pos := if t.dec.nextDigit = 4 then .aux else .arm } })

/-- R207 (the spec's decision D16): SEQ.AUX takes a fresh sample into aux and reads the reading and the decimal index once. -/
def Obligations.SeqAuxReadsTheResultOnce : Prop :=
  ∀ (s : State) (r : BitVec 24) (p : BitVec 3),
    (match s.dec with
      | .v6 d => r = d.reading ∧ p = d.dp
      | .v4 d => r.toNat = d.reading.toNat ∧ p = d.dp) →
    (∀ w ws, s.env.samples = w :: ws → exec .seqAux s = .next { s with
      seq := { s.seq with
        pos := .format, reading := r, dp := p, aux := w &&& (match s.dec with
          | .v6 _ => s.cfg.mask6
          | .v4 _ => s.cfg.mask4) }
      env := { s.env with samples := ws } }) ∧
    (s.env.samples = [] → ∃ w : Word, exec .seqAux s = .next { s with
      seq := { s.seq with
        pos := .format, reading := r, dp := p, aux := w &&& (match s.dec with
          | .v6 _ => s.cfg.mask6
          | .v4 _ => s.cfg.mask4) }
      env := { s.env with draws := s.env.draws + 1 } })

/-- R208, R209: SEQ.FORMAT is the family's formatter on the result and aux, and SEQ.TRANSMIT is TX.SEND; where these complete, so
does the action, and the loop goes on. -/
def Obligations.SeqFormatAndTransmit : Prop :=
  (∀ (s : State) (d : Dec6), s.dec = .v6 d → s.cfg.valid = true → s.seq.dp.toNat ≤ 6 →
    ∃ t, exec (.fmt6 s.seq.reading s.seq.dp ⟨s.seq.aux⟩) s = .next t ∧
      exec .seqFormat s = .next { t with seq := { s.seq with pos := .transmit } }) ∧
  (∀ (s : State) (d : Dec4), s.dec = .v4 d → s.cfg.valid = true →
    ∃ t, exec (.fmt4 (s.seq.reading.setWidth 16)) s = .next t ∧
      exec .seqFormat s = .next { t with seq := { s.seq with pos := .transmit } }) ∧
  (∀ (s : State), s.tx.busy = false → s.TextFrom 0 →
    ∃ t, exec .txSend s = .next t ∧
      exec .seqTransmit s = .next { t with seq := { s.seq with pos := .rearm } })

/-! ### Interrupts, watchdog and reset (60_exceptions.md, 70_reset_and_hazards.md) -/

/-- R226 (the spec's decision D19): a level change of an armed line adds that line to the pending set and changes nothing else; of a line that is not
armed it does nothing. -/
def Obligations.IrqEdgeSetsPendingOfArmedLine : Prop :=
  ∀ (s : State) (l : Line),
    (lineIn l s.ie = true → ∃ pending : LineSet,
      exec (.irqEdge l) s = .next { s with ifg := pending } ∧
      ∀ k, lineIn k pending = (lineIn k s.ifg || decide (k = l))) ∧
    (lineIn l s.ie = false → exec (.irqEdge l) s = .next s)

/-- R229, R232: IRQ.HANDLE acknowledges every pending source and sets the wake flag, and writes nothing else. -/
def Obligations.IrqHandleWritesOnlyItsTwoFlags : Prop :=
  ∀ s : State, exec .irqHandle s = .next { s with ifg := noLines, awake := true } ∧
    ∀ l, lineIn l noLines = false

/-- R233, R234, R36 (the spec's decisions D17, D20): while the watchdog is armed, in ARMED_IDLE and CAPTURING, and in FMT_TX only if
WDT_IN_TX, WDT.RESET puts every piece of state at its reset value and control at SEQ.INIT. R36 leaves txbuf unspecified: that
no index has a value is the model's choice (log 6), as are the values of the sequencer's sample, aux and result (log 7) and of
the gap (log 30). That the configuration, the wire trace and the environment's part stay is DEDUCED (logs 15, 26). -/
def Obligations.WatchdogResetsTheDevice : Prop :=
  ∀ s : State, s.wdtArmed = true →
    (s.dec.nextDigit = s.cfg.idle ∨ s.dec.capturing = true ∨ (s.dec.complete = true ∧ s.cfg.wdtInTx = true)) →
    exec .wdtReset s = .next {
      cfg := s.cfg
      dec := match s.dec with
        | .v6 _ => .v6 { reading := 0, dp := 0, nextDigit := s.cfg.idle }
        | .v4 _ => .v4 { reading := 0, dp := 0, nextDigit := s.cfg.idle }
      tx := { busy := false, sr := 0x1FF, cnt := 0, idx := 0 }
      txd := true
      gap := 0
      wire := s.wire
      txbuf := []
      seq := { pos := .init, asleep := false, sample := 0, aux := 0, reading := 0, dp := 0 }
      awake := false
      ie := ⟨0⟩
      ifg := ⟨0⟩
      wdtArmed := false
      env := s.env }

/-- R233 (the spec's decision D17; the refusal is the model's choice, log 11): in FMT_TX with WDT_IN_TX false, and while not armed, the watchdog is not enabled, and its turn passes. -/
def Obligations.WatchdogIsNotEnabledInTransmission : Prop :=
  ∀ (s : State) (ts : List Turn),
    s.wdtArmed = false ∨ (7 ≤ s.cfg.idle.toNat ∧ s.dec.complete = true ∧ s.cfg.wdtInTx = false) →
    exec .wdtReset s = .refused .notEnabled ∧
    (s.env.turns = .watchdog :: ts → step s = .next { s with env := { s.env with turns := ts } })

/-- R36 (the spec's decisions D6, D11, D20): what reset leaves, in both families, in every configuration. -/
def Obligations.ResetStateIsAsListed : Prop :=
  ∀ (v : Variant) (c : Config) (s : State), s = State.resetOf v c →
    s.dec = (match v with
      | .v6 => .v6 { reading := 0, dp := 0, nextDigit := c.idle }
      | .v4 => .v4 { reading := 0, dp := 0, nextDigit := c.idle }) ∧
    s.tx = { busy := false, sr := 0x1FF, cnt := 0, idx := 0 } ∧ s.txd = true ∧ Config.default.idle = 15 ∧
    s.seqState = some .armedIdle ∧ s.seq.asleep = false ∧ s.awake = false ∧
    (∀ l, lineIn l s.ie = false ∧ lineIn l s.ifg = false) ∧ s.wdtArmed = false

/-! ### Whole-machine rules -/

/-- R2, R72: no operation writes the configuration or the variant. -/
def Obligations.ConfigurationIsNeverWritten : Prop :=
  ∀ (i : Instr) (s t : State), exec i s = .next t → t.cfg = s.cfg ∧ t.variant = s.variant

/-- R28, R61, R68: no operation but FMT6, FMT4, SEQ.FORMAT (which issues them) and WDT.RESET changes a character of txbuf, and
every operation keeps the buffer's canonical form. -/
def Obligations.OnlyTheFormatterWritesTheBuffer : Prop :=
  ∀ (i : Instr) (s t : State), exec i s = .next t →
    (Memory.wf s.txbuf = true → Memory.wf t.txbuf = true) ∧
    ((∀ r p a, i ≠ .fmt6 r p a) → (∀ r, i ≠ .fmt4 r) → i ≠ .seqFormat → i ≠ .wdtReset →
      ∀ a, t.txbuf.read a = s.txbuf.read a)

/-- R211: under the loop's invariant, seq.state moves only from ARMED_IDLE to CAPTURING and from CAPTURING to FMT_TX by SEQ.STEP,
from CAPTURING to ARMED_IDLE by SEQ.STEP or the watchdog, and from FMT_TX to ARMED_IDLE by SEQ.REARM or the watchdog. -/
def Obligations.SequencerStateMovesOnlyByTheRules : Prop :=
  ∀ s t : State, s.Inv → step s = .next t →
    t.seqState = s.seqState ∨
    (s.seqState = some .armedIdle ∧ t.seqState = some .capturing ∧ s.seq.pos = .step) ∨
    (s.seqState = some .capturing ∧ t.seqState = some .fmtTx ∧ s.seq.pos = .step) ∨
    (s.seqState = some .capturing ∧ t.seqState = some .armedIdle ∧ (s.seq.pos = .step ∨ s.turn = .watchdog)) ∨
    (s.seqState = some .fmtTx ∧ t.seqState = some .armedIdle ∧
      (s.seq.pos = .rearm ∨ (s.turn = .watchdog ∧ s.cfg.wdtInTx = true)))

/-- R222, R223: from a state of the loop, however long a run in which no reading is complete, and wherever the watchdog fires,
nothing is put on the wire. -/
def Obligations.IncompleteReadingSendsNothing : Prop :=
  ∀ (n : Nat) (s t : State), s.Inv → runSteps n s = .next t →
    (∀ k < n, ∀ u, runSteps k s = .next u → u.dec.complete = false) →
    t.wire = s.wire

/-- R202, R203, R205, R206, R226, R229: one wake. From SEQ.ARM, a level change of the MUP line, the handler, and the main
thread's turns drive the decoder by exactly one step on the environment's sample and consume the wake. -/
def Obligations.OneWakeIsOneDecoderStep : Prop :=
  (∀ (s : State) (d : Dec6) (w : Word) (ws : List Word) (ts : List Turn), s.Inv → s.dec = .v6 d → s.seq.pos = .arm →
    s.awake = false → s.env.samples = w :: ws →
    s.env.turns = [.main, .edge (.v6 .mup), .irq, .main, .main, .main, .main] ++ ts →
    ∃ t u, runSteps 7 s = .next t ∧ exec (.dec6Step ⟨w⟩) s = .next u ∧ t.dec = u.dec ∧
      t.awake = false ∧ t.ifg = noLines ∧ t.wire = s.wire ∧ t.env.samples = ws ∧ t.env.turns = ts) ∧
  (∀ (s : State) (d : Dec4) (w : Word) (ws : List Word) (ts : List Turn), s.Inv → s.dec = .v4 d → s.seq.pos = .arm →
    s.awake = false → s.env.samples = w :: ws →
    s.env.turns = [.main, .edge (.v4 .mup), .irq, .main, .main, .main, .main] ++ ts →
    ∃ t u, runSteps 7 s = .next t ∧ exec (.dec4Step ⟨w⟩) s = .next u ∧ t.dec = u.dec ∧
      t.awake = false ∧ t.ifg = noLines ∧ t.wire = s.wire ∧ t.env.samples = ws ∧ t.env.turns = ts)

/-- R187 (round trip), R131 (2), R149 (the spec's decisions D7, D8): the decoder's steps on a well-formed sweep, then SEQ.AUX and
SEQ.FORMAT, leave in txbuf the digit characters in display order. In V6 the digits are 0 to 9, DP is asserted at digit 7 - k
only (k = 0 for none), and the point stands so that k digits follow it. In V4 the strobes come in the order DG1, DG3, DG2, DG4;
the three digits 0 to 9 are those of DG3, DG2, DG1 under LSD_FIRST and of DG2, DG3, DG4 under MSD_FIRST, in display order, and
the fourth nibble is the flags. -/
def Obligations.DecodedSweepFormatsAsItsDigits : Prop :=
  (∀ (s : State) (w : Fin 6 → Sin6) (k : Nat), s.cfg.valid = true →
    s.dec = .v6 { reading := 0, dp := 0, nextDigit := 0 } → k ≤ 6 →
    (∀ n, (w n).asserted s.cfg .mup = false ∧ (w n).asserted s.cfg (strobe6 n) = true ∧
      (digit6 s.cfg (w n)).toNat ≤ 9 ∧
      ((w n).asserted s.cfg .dp = true ↔ n.val + 1 = 7 - k)) →
    ∃ t, runOps [.dec6Step (w 0), .dec6Step (w 1), .dec6Step (w 2), .dec6Step (w 3), .dec6Step (w 4), .dec6Step (w 5),
        .seqAux, .seqFormat] s = .next t ∧
      ∀ n : Fin 6, t.txbuf.read (if k = 0 ∨ n.val < 6 - k then n.val + 1 else n.val + 2) =
          some (0x30 + (digit6 s.cfg (w n)).setWidth 8) ∧
        (k ≠ 0 → t.txbuf.read (7 - k) = some 0x2E)) ∧
  (∀ (s : State) (w : Fin 4 → Sin4) (g : Fin 3 → Fin 4), s.cfg.valid = true →
    s.dec = .v4 { reading := 0, dp := 0, nextDigit := 0 } →
    (∀ k, (w k).asserted s.cfg .mup = false ∧
      (w k).asserted s.cfg ([.dg1, .dg3, .dg2, .dg4].get k) = true) →
    g = (match s.cfg.numbering4 with
      | .lsdFirst => ![1, 2, 0]
      | .msdFirst => ![2, 1, 3]) →
    (∀ j, (digit4 s.cfg (w (g j))).toNat ≤ 9) →
    ∃ t, runOps [.dec4Step (w 0), .dec4Step (w 1), .dec4Step (w 2), .dec4Step (w 3), .seqAux, .seqFormat] s = .next t ∧
      ∀ j : Fin 3, t.txbuf.read (3 + j.val) = some (0x30 + (digit4 s.cfg (w (g j))).setWidth 8))

/-- The invariant holds at reset, in both families, in every configuration that meets the spec's constraints. -/
def Obligations.ResetMeetsTheInvariant : Prop :=
  State.reset.Inv ∧ ∀ (v : Variant) (c : Config), c.valid = true → (State.resetOf v c).Inv

/-- R132, R151, R168, R239: from every state of the invariant, whatever the environment does, a step takes a next state, and the
invariant holds there. So no run of the block's own loop is refused or faults. -/
def Obligations.EveryStepRunsAndKeepsTheInvariant : Prop :=
  ∀ s : State, s.Inv → ∃ t, step s = .next t ∧ t.Inv
end

