-- ==== Sys2Proof/Laws/State.lean ====
section
/-! SUPPORT. One lemma per field per update of State, each true by unfolding, so that no later proof unfolds a
record update. -/

namespace Sys2Proof.Machine

/-! ### `State.goTo` -/

@[simp] theorem State.goTo_cfg (s : State) (p : SeqPos) : (s.goTo p).cfg = s.cfg := rfl
@[simp] theorem State.goTo_dec (s : State) (p : SeqPos) : (s.goTo p).dec = s.dec := rfl
@[simp] theorem State.goTo_tx (s : State) (p : SeqPos) : (s.goTo p).tx = s.tx := rfl
@[simp] theorem State.goTo_txd (s : State) (p : SeqPos) : (s.goTo p).txd = s.txd := rfl
@[simp] theorem State.goTo_wire (s : State) (p : SeqPos) : (s.goTo p).wire = s.wire := rfl
@[simp] theorem State.goTo_gap (s : State) (p : SeqPos) : (s.goTo p).gap = s.gap := rfl
@[simp] theorem State.goTo_txbuf (s : State) (p : SeqPos) : (s.goTo p).txbuf = s.txbuf := rfl
@[simp] theorem State.goTo_seq (s : State) (p : SeqPos) : (s.goTo p).seq = { s.seq with pos := p } := rfl
@[simp] theorem State.goTo_awake (s : State) (p : SeqPos) : (s.goTo p).awake = s.awake := rfl
@[simp] theorem State.goTo_ie (s : State) (p : SeqPos) : (s.goTo p).ie = s.ie := rfl
@[simp] theorem State.goTo_ifg (s : State) (p : SeqPos) : (s.goTo p).ifg = s.ifg := rfl
@[simp] theorem State.goTo_wdtArmed (s : State) (p : SeqPos) : (s.goTo p).wdtArmed = s.wdtArmed := rfl
@[simp] theorem State.goTo_env (s : State) (p : SeqPos) : (s.goTo p).env = s.env := rfl

/-! ### `State.drawn` -/

@[simp] theorem State.drawn_cfg (s : State) (n : Nat) : (s.drawn n).cfg = s.cfg := rfl
@[simp] theorem State.drawn_dec (s : State) (n : Nat) : (s.drawn n).dec = s.dec := rfl
@[simp] theorem State.drawn_tx (s : State) (n : Nat) : (s.drawn n).tx = s.tx := rfl
@[simp] theorem State.drawn_txd (s : State) (n : Nat) : (s.drawn n).txd = s.txd := rfl
@[simp] theorem State.drawn_wire (s : State) (n : Nat) : (s.drawn n).wire = s.wire := rfl
@[simp] theorem State.drawn_gap (s : State) (n : Nat) : (s.drawn n).gap = s.gap := rfl
@[simp] theorem State.drawn_txbuf (s : State) (n : Nat) : (s.drawn n).txbuf = s.txbuf := rfl
@[simp] theorem State.drawn_seq (s : State) (n : Nat) : (s.drawn n).seq = s.seq := rfl
@[simp] theorem State.drawn_awake (s : State) (n : Nat) : (s.drawn n).awake = s.awake := rfl
@[simp] theorem State.drawn_ie (s : State) (n : Nat) : (s.drawn n).ie = s.ie := rfl
@[simp] theorem State.drawn_ifg (s : State) (n : Nat) : (s.drawn n).ifg = s.ifg := rfl
@[simp] theorem State.drawn_wdtArmed (s : State) (n : Nat) : (s.drawn n).wdtArmed = s.wdtArmed := rfl
@[simp] theorem State.drawn_env (s : State) (n : Nat) : (s.drawn n).env = { s.env with draws := s.env.draws + n } := rfl

/-! ### `State.txFinished` -/

@[simp] theorem State.txFinished_cfg (s : State) : (s.txFinished).cfg = s.cfg := rfl
@[simp] theorem State.txFinished_dec (s : State) : (s.txFinished).dec = s.dec := rfl
@[simp] theorem State.txFinished_tx (s : State) : (s.txFinished).tx = { s.tx with busy := false } := rfl
@[simp] theorem State.txFinished_txd (s : State) : (s.txFinished).txd = true := rfl
@[simp] theorem State.txFinished_wire (s : State) : (s.txFinished).wire = s.wire := rfl
@[simp] theorem State.txFinished_gap (s : State) : (s.txFinished).gap = s.gap := rfl
@[simp] theorem State.txFinished_txbuf (s : State) : (s.txFinished).txbuf = s.txbuf := rfl
@[simp] theorem State.txFinished_seq (s : State) : (s.txFinished).seq = s.seq := rfl
@[simp] theorem State.txFinished_awake (s : State) : (s.txFinished).awake = s.awake := rfl
@[simp] theorem State.txFinished_ie (s : State) : (s.txFinished).ie = s.ie := rfl
@[simp] theorem State.txFinished_ifg (s : State) : (s.txFinished).ifg = s.ifg := rfl
@[simp] theorem State.txFinished_wdtArmed (s : State) : (s.txFinished).wdtArmed = s.wdtArmed := rfl
@[simp] theorem State.txFinished_env (s : State) : (s.txFinished).env = s.env := rfl

/-! ### `State.txdDrive` -/

@[simp] theorem State.txdDrive_cfg (s : State) (b : Bool) : (s.txdDrive b).cfg = s.cfg := rfl
@[simp] theorem State.txdDrive_dec (s : State) (b : Bool) : (s.txdDrive b).dec = s.dec := rfl
@[simp] theorem State.txdDrive_tx (s : State) (b : Bool) : (s.txdDrive b).tx = s.tx := rfl
@[simp] theorem State.txdDrive_txd (s : State) (b : Bool) : (s.txdDrive b).txd = b := rfl
@[simp] theorem State.txdDrive_wire (s : State) (b : Bool) : (s.txdDrive b).wire = s.wire ++ [b] := rfl
@[simp] theorem State.txdDrive_gap (s : State) (b : Bool) : (s.txdDrive b).gap = s.gap := rfl
@[simp] theorem State.txdDrive_txbuf (s : State) (b : Bool) : (s.txdDrive b).txbuf = s.txbuf := rfl
@[simp] theorem State.txdDrive_seq (s : State) (b : Bool) : (s.txdDrive b).seq = s.seq := rfl
@[simp] theorem State.txdDrive_awake (s : State) (b : Bool) : (s.txdDrive b).awake = s.awake := rfl
@[simp] theorem State.txdDrive_ie (s : State) (b : Bool) : (s.txdDrive b).ie = s.ie := rfl
@[simp] theorem State.txdDrive_ifg (s : State) (b : Bool) : (s.txdDrive b).ifg = s.ifg := rfl
@[simp] theorem State.txdDrive_wdtArmed (s : State) (b : Bool) : (s.txdDrive b).wdtArmed = s.wdtArmed := rfl
@[simp] theorem State.txdDrive_env (s : State) (b : Bool) : (s.txdDrive b).env = s.env := rfl

/-! ### `State.takeInterrupt` -/

@[simp] theorem State.takeInterrupt_cfg (s : State) : (s.takeInterrupt).cfg = s.cfg := rfl
@[simp] theorem State.takeInterrupt_dec (s : State) : (s.takeInterrupt).dec = s.dec := rfl
@[simp] theorem State.takeInterrupt_tx (s : State) : (s.takeInterrupt).tx = s.tx := rfl
@[simp] theorem State.takeInterrupt_txd (s : State) : (s.takeInterrupt).txd = s.txd := rfl
@[simp] theorem State.takeInterrupt_wire (s : State) : (s.takeInterrupt).wire = s.wire := rfl
@[simp] theorem State.takeInterrupt_gap (s : State) : (s.takeInterrupt).gap = s.gap := rfl
@[simp] theorem State.takeInterrupt_txbuf (s : State) : (s.takeInterrupt).txbuf = s.txbuf := rfl
@[simp] theorem State.takeInterrupt_seq (s : State) : (s.takeInterrupt).seq = s.seq := rfl
@[simp] theorem State.takeInterrupt_awake (s : State) : (s.takeInterrupt).awake = true := rfl
@[simp] theorem State.takeInterrupt_ie (s : State) : (s.takeInterrupt).ie = s.ie := rfl
@[simp] theorem State.takeInterrupt_ifg (s : State) : (s.takeInterrupt).ifg = noLines := rfl
@[simp] theorem State.takeInterrupt_wdtArmed (s : State) : (s.takeInterrupt).wdtArmed = s.wdtArmed := rfl
@[simp] theorem State.takeInterrupt_env (s : State) : (s.takeInterrupt).env = s.env := rfl

/-! ### `State.fullReset` -/

@[simp] theorem State.fullReset_cfg (s : State) : (s.fullReset).cfg = s.cfg := rfl
@[simp] theorem State.fullReset_dec (s : State) : (s.fullReset).dec = Decoder.reset s.cfg s.variant := rfl
@[simp] theorem State.fullReset_tx (s : State) : (s.fullReset).tx = ⟨false, 0x1FF, 0, 0⟩ := rfl
@[simp] theorem State.fullReset_txd (s : State) : (s.fullReset).txd = true := rfl
@[simp] theorem State.fullReset_wire (s : State) : (s.fullReset).wire = s.wire := rfl
@[simp] theorem State.fullReset_gap (s : State) : (s.fullReset).gap = 0 := rfl
@[simp] theorem State.fullReset_txbuf (s : State) : (s.fullReset).txbuf = [] := rfl
@[simp] theorem State.fullReset_seq (s : State) : (s.fullReset).seq = ⟨.init, false, 0, 0, 0, 0⟩ := rfl
@[simp] theorem State.fullReset_awake (s : State) : (s.fullReset).awake = false := rfl
@[simp] theorem State.fullReset_ie (s : State) : (s.fullReset).ie = noLines := rfl
@[simp] theorem State.fullReset_ifg (s : State) : (s.fullReset).ifg = noLines := rfl
@[simp] theorem State.fullReset_wdtArmed (s : State) : (s.fullReset).wdtArmed = false := rfl
@[simp] theorem State.fullReset_env (s : State) : (s.fullReset).env = s.env := rfl

/-! ### `State.placeWord` -/

@[simp] theorem State.placeWord_cfg (s : State) (w : Word) : (s.placeWord w).cfg = s.cfg := rfl
@[simp] theorem State.placeWord_dec (s : State) (w : Word) : (s.placeWord w).dec = s.dec.withTablePhase s.cfg w := rfl
@[simp] theorem State.placeWord_tx (s : State) (w : Word) : (s.placeWord w).tx = { s.tx with busy := false } := rfl
@[simp] theorem State.placeWord_txd (s : State) (w : Word) : (s.placeWord w).txd = s.txd := rfl
@[simp] theorem State.placeWord_wire (s : State) (w : Word) : (s.placeWord w).wire = s.wire := rfl
@[simp] theorem State.placeWord_gap (s : State) (w : Word) : (s.placeWord w).gap = s.gap := rfl
@[simp] theorem State.placeWord_txbuf (s : State) (w : Word) : (s.placeWord w).txbuf = s.txbuf := rfl
@[simp] theorem State.placeWord_seq (s : State) (w : Word) : (s.placeWord w).seq = { s.seq with pos := .step, sample := w } := rfl
@[simp] theorem State.placeWord_awake (s : State) (w : Word) : (s.placeWord w).awake = s.awake := rfl
@[simp] theorem State.placeWord_ie (s : State) (w : Word) : (s.placeWord w).ie = s.ie := rfl
@[simp] theorem State.placeWord_ifg (s : State) (w : Word) : (s.placeWord w).ifg = s.ifg := rfl
@[simp] theorem State.placeWord_wdtArmed (s : State) (w : Word) : (s.placeWord w).wdtArmed = s.wdtArmed := rfl
@[simp] theorem State.placeWord_env (s : State) (w : Word) : (s.placeWord w).env = { s.env with turns := .main :: s.env.turns } := rfl

/-! ### `State.afterSample` -/

@[simp] theorem State.afterSample_cfg (s : State) : s.afterSample.cfg = s.cfg := by
  unfold State.afterSample; split <;> rfl
@[simp] theorem State.afterSample_dec (s : State) : s.afterSample.dec = s.dec := by
  unfold State.afterSample; split <;> rfl
@[simp] theorem State.afterSample_tx (s : State) : s.afterSample.tx = s.tx := by
  unfold State.afterSample; split <;> rfl
@[simp] theorem State.afterSample_txd (s : State) : s.afterSample.txd = s.txd := by
  unfold State.afterSample; split <;> rfl
@[simp] theorem State.afterSample_wire (s : State) : s.afterSample.wire = s.wire := by
  unfold State.afterSample; split <;> rfl
@[simp] theorem State.afterSample_gap (s : State) : s.afterSample.gap = s.gap := by
  unfold State.afterSample; split <;> rfl
@[simp] theorem State.afterSample_txbuf (s : State) : s.afterSample.txbuf = s.txbuf := by
  unfold State.afterSample; split <;> rfl
@[simp] theorem State.afterSample_seq (s : State) : s.afterSample.seq = s.seq := by
  unfold State.afterSample; split <;> rfl
@[simp] theorem State.afterSample_awake (s : State) : s.afterSample.awake = s.awake := by
  unfold State.afterSample; split <;> rfl
@[simp] theorem State.afterSample_ie (s : State) : s.afterSample.ie = s.ie := by
  unfold State.afterSample; split <;> rfl
@[simp] theorem State.afterSample_ifg (s : State) : s.afterSample.ifg = s.ifg := by
  unfold State.afterSample; split <;> rfl
@[simp] theorem State.afterSample_wdtArmed (s : State) : s.afterSample.wdtArmed = s.wdtArmed := by
  unfold State.afterSample; split <;> rfl

/-! ### `State.afterTurn` -/

@[simp] theorem State.afterTurn_cfg (s : State) : s.afterTurn.cfg = s.cfg := by
  unfold State.afterTurn; split <;> rfl
@[simp] theorem State.afterTurn_dec (s : State) : s.afterTurn.dec = s.dec := by
  unfold State.afterTurn; split <;> rfl
@[simp] theorem State.afterTurn_tx (s : State) : s.afterTurn.tx = s.tx := by
  unfold State.afterTurn; split <;> rfl
@[simp] theorem State.afterTurn_txd (s : State) : s.afterTurn.txd = s.txd := by
  unfold State.afterTurn; split <;> rfl
@[simp] theorem State.afterTurn_wire (s : State) : s.afterTurn.wire = s.wire := by
  unfold State.afterTurn; split <;> rfl
@[simp] theorem State.afterTurn_gap (s : State) : s.afterTurn.gap = s.gap := by
  unfold State.afterTurn; split <;> rfl
@[simp] theorem State.afterTurn_txbuf (s : State) : s.afterTurn.txbuf = s.txbuf := by
  unfold State.afterTurn; split <;> rfl
@[simp] theorem State.afterTurn_seq (s : State) : s.afterTurn.seq = s.seq := by
  unfold State.afterTurn; split <;> rfl
@[simp] theorem State.afterTurn_awake (s : State) : s.afterTurn.awake = s.awake := by
  unfold State.afterTurn; split <;> rfl
@[simp] theorem State.afterTurn_ie (s : State) : s.afterTurn.ie = s.ie := by
  unfold State.afterTurn; split <;> rfl
@[simp] theorem State.afterTurn_ifg (s : State) : s.afterTurn.ifg = s.ifg := by
  unfold State.afterTurn; split <;> rfl
@[simp] theorem State.afterTurn_wdtArmed (s : State) : s.afterTurn.wdtArmed = s.wdtArmed := by
  unfold State.afterTurn; split <;> rfl

/-! ### `State.passTurn` -/

/-- A passing turn changes nothing but the gap. -/
theorem State.passTurn_eq (s : State) (t : Turn) : s.passTurn t = { s with gap := (s.passTurn t).gap } := by
  cases t <;> simp only [State.passTurn]
  split <;> rfl

@[simp] theorem State.passTurn_cfg (s : State) (t : Turn) : (s.passTurn t).cfg = s.cfg := by
  rw [State.passTurn_eq]
@[simp] theorem State.passTurn_dec (s : State) (t : Turn) : (s.passTurn t).dec = s.dec := by
  rw [State.passTurn_eq]
@[simp] theorem State.passTurn_tx (s : State) (t : Turn) : (s.passTurn t).tx = s.tx := by
  rw [State.passTurn_eq]
@[simp] theorem State.passTurn_txd (s : State) (t : Turn) : (s.passTurn t).txd = s.txd := by
  rw [State.passTurn_eq]
@[simp] theorem State.passTurn_wire (s : State) (t : Turn) : (s.passTurn t).wire = s.wire := by
  rw [State.passTurn_eq]
@[simp] theorem State.passTurn_txbuf (s : State) (t : Turn) : (s.passTurn t).txbuf = s.txbuf := by
  rw [State.passTurn_eq]
@[simp] theorem State.passTurn_seq (s : State) (t : Turn) : (s.passTurn t).seq = s.seq := by
  rw [State.passTurn_eq]
@[simp] theorem State.passTurn_awake (s : State) (t : Turn) : (s.passTurn t).awake = s.awake := by
  rw [State.passTurn_eq]
@[simp] theorem State.passTurn_ie (s : State) (t : Turn) : (s.passTurn t).ie = s.ie := by
  rw [State.passTurn_eq]
@[simp] theorem State.passTurn_ifg (s : State) (t : Turn) : (s.passTurn t).ifg = s.ifg := by
  rw [State.passTurn_eq]
@[simp] theorem State.passTurn_wdtArmed (s : State) (t : Turn) : (s.passTurn t).wdtArmed = s.wdtArmed := by
  rw [State.passTurn_eq]
@[simp] theorem State.passTurn_env (s : State) (t : Turn) : (s.passTurn t).env = s.env := by
  rw [State.passTurn_eq]

/-- The gap shrinks, and only in a gap. -/
theorem State.passTurn_gap_le (s : State) (t : Turn) : (s.passTurn t).gap ≤ s.gap := by
  cases t <;> simp only [State.passTurn, Nat.le_refl]
  split <;> simp

/-- Between frames the bit clock's turn takes one bit time off the gap. -/
theorem State.passTurn_bitClock {s : State} (hb : s.tx.busy = true) (hc : s.tx.cnt = 0) :
    s.passTurn .bitClock = { s with gap := s.gap - 1 } := by
  simp [State.passTurn, hb, hc]

/-! ### `State.afterStep` -/

@[simp] theorem State.afterStep_cfg (s : State) : s.afterStep.cfg = s.cfg := rfl
@[simp] theorem State.afterStep_dec (s : State) : s.afterStep.dec = s.dec := rfl
@[simp] theorem State.afterStep_tx (s : State) : s.afterStep.tx = s.tx := rfl
@[simp] theorem State.afterStep_txd (s : State) : s.afterStep.txd = s.txd := rfl
@[simp] theorem State.afterStep_wire (s : State) : s.afterStep.wire = s.wire := rfl
@[simp] theorem State.afterStep_gap (s : State) : s.afterStep.gap = s.gap := rfl
@[simp] theorem State.afterStep_txbuf (s : State) : s.afterStep.txbuf = s.txbuf := rfl
@[simp] theorem State.afterStep_seq (s : State) :
    s.afterStep.seq = { s.seq with pos := if s.dec.complete then .aux else .arm } := rfl
@[simp] theorem State.afterStep_awake (s : State) : s.afterStep.awake = s.awake := rfl
@[simp] theorem State.afterStep_ie (s : State) : s.afterStep.ie = s.ie := rfl
@[simp] theorem State.afterStep_ifg (s : State) : s.afterStep.ifg = s.ifg := rfl
@[simp] theorem State.afterStep_wdtArmed (s : State) : s.afterStep.wdtArmed = s.wdtArmed := rfl
@[simp] theorem State.afterStep_env (s : State) : s.afterStep.env = s.env := rfl

@[simp] theorem State.returnFromInterrupt_eq (s : State) : s.returnFromInterrupt = s := rfl

/-! ### Views that depend on one field -/

@[simp] theorem State.goTo_variant (s : State) (p : SeqPos) : (s.goTo p).variant = s.variant := rfl
@[simp] theorem State.goTo_txbufLen (s : State) (p : SeqPos) : (s.goTo p).txbufLen = s.txbufLen := rfl
@[simp] theorem State.goTo_sinMask (s : State) (p : SeqPos) : (s.goTo p).sinMask = s.sinMask := rfl
@[simp] theorem State.goTo_seqState (s : State) (p : SeqPos) : (s.goTo p).seqState = s.seqState := rfl
@[simp] theorem State.drawn_variant (s : State) (n : Nat) : (s.drawn n).variant = s.variant := rfl
@[simp] theorem State.drawn_txbufLen (s : State) (n : Nat) : (s.drawn n).txbufLen = s.txbufLen := rfl
@[simp] theorem State.drawn_sinMask (s : State) (n : Nat) : (s.drawn n).sinMask = s.sinMask := rfl
@[simp] theorem State.drawn_seqState (s : State) (n : Nat) : (s.drawn n).seqState = s.seqState := rfl
@[simp] theorem State.txFinished_variant (s : State) : (s.txFinished).variant = s.variant := rfl
@[simp] theorem State.txFinished_txbufLen (s : State) : (s.txFinished).txbufLen = s.txbufLen := rfl
@[simp] theorem State.txFinished_sinMask (s : State) : (s.txFinished).sinMask = s.sinMask := rfl
@[simp] theorem State.txFinished_seqState (s : State) : (s.txFinished).seqState = s.seqState := rfl
@[simp] theorem State.txdDrive_variant (s : State) (b : Bool) : (s.txdDrive b).variant = s.variant := rfl
@[simp] theorem State.txdDrive_txbufLen (s : State) (b : Bool) : (s.txdDrive b).txbufLen = s.txbufLen := rfl
@[simp] theorem State.txdDrive_sinMask (s : State) (b : Bool) : (s.txdDrive b).sinMask = s.sinMask := rfl
@[simp] theorem State.txdDrive_seqState (s : State) (b : Bool) : (s.txdDrive b).seqState = s.seqState := rfl
@[simp] theorem State.takeInterrupt_variant (s : State) : (s.takeInterrupt).variant = s.variant := rfl
@[simp] theorem State.takeInterrupt_txbufLen (s : State) : (s.takeInterrupt).txbufLen = s.txbufLen := rfl
@[simp] theorem State.takeInterrupt_sinMask (s : State) : (s.takeInterrupt).sinMask = s.sinMask := rfl
@[simp] theorem State.takeInterrupt_seqState (s : State) : (s.takeInterrupt).seqState = s.seqState := rfl
@[simp] theorem State.afterSample_variant (s : State) : s.afterSample.variant = s.variant := by
  unfold State.afterSample; split <;> rfl
@[simp] theorem State.afterSample_txbufLen (s : State) : s.afterSample.txbufLen = s.txbufLen := by
  unfold State.afterSample; split <;> rfl
@[simp] theorem State.afterSample_sinMask (s : State) : s.afterSample.sinMask = s.sinMask := by
  unfold State.afterSample; split <;> rfl
@[simp] theorem State.afterSample_seqState (s : State) : s.afterSample.seqState = s.seqState := by
  unfold State.afterSample; split <;> rfl
@[simp] theorem State.afterTurn_variant (s : State) : s.afterTurn.variant = s.variant := by
  unfold State.afterTurn; split <;> rfl
@[simp] theorem State.afterTurn_txbufLen (s : State) : s.afterTurn.txbufLen = s.txbufLen := by
  unfold State.afterTurn; split <;> rfl
@[simp] theorem State.afterTurn_sinMask (s : State) : s.afterTurn.sinMask = s.sinMask := by
  unfold State.afterTurn; split <;> rfl
@[simp] theorem State.afterTurn_seqState (s : State) : s.afterTurn.seqState = s.seqState := by
  unfold State.afterTurn; split <;> rfl
@[simp] theorem State.passTurn_variant (s : State) (t : Turn) : (s.passTurn t).variant = s.variant := by
  rw [State.passTurn_eq]; rfl
@[simp] theorem State.passTurn_txbufLen (s : State) (t : Turn) : (s.passTurn t).txbufLen = s.txbufLen := by
  rw [State.passTurn_eq]; rfl
@[simp] theorem State.passTurn_sinMask (s : State) (t : Turn) : (s.passTurn t).sinMask = s.sinMask := by
  rw [State.passTurn_eq]; rfl
@[simp] theorem State.passTurn_seqState (s : State) (t : Turn) : (s.passTurn t).seqState = s.seqState := by
  rw [State.passTurn_eq]; rfl

end Sys2Proof.Machine
end

