-- ==== Sys2Proof/Laws/Memory.lean ====
section
/-! SUPPORT. The text buffer: a read after a write, the canonical form, and what a written text reads as. -/

namespace Sys2Proof.Machine

@[simp] theorem Memory.read_nil (i : Nat) : Memory.read [] i = none := rfl

theorem Memory.read_cons (a : Nat) (v : Byte) (m : Memory) (i : Nat) :
    Memory.read ((a, v) :: m) i = if a = i then some v else Memory.read m i := rfl

/-- A read after a write gives the character written, and leaves every other index alone. -/
theorem Memory.read_write (m : Memory) (i j : Nat) (c : Byte) :
    (m.write i c).read j = if i = j then some c else m.read j := by
  induction m with
  | nil => simp [Memory.write, Memory.read]
  | cons x m ih =>
    obtain ⟨a, v⟩ := x
    unfold Memory.write
    split
    · simp [Memory.read]
    · split
      · rename_i h
        subst h
        by_cases hj : i = j <;> simp [Memory.read, hj]
      · by_cases ha : a = j
        · subst ha
          have : i ≠ a := by omega
          simp [Memory.read, this]
        · simp [Memory.read, ha, ih]

@[simp] theorem Memory.read_write_same (m : Memory) (i : Nat) (c : Byte) : (m.write i c).read i = some c := by
  simp [Memory.read_write]

theorem Memory.read_write_other (m : Memory) {i j : Nat} (c : Byte) (h : i ≠ j) :
    (m.write i c).read j = m.read j := by
  simp [Memory.read_write, h]

theorem Memory.wf_iff (m : Memory) : m.wf = true ↔ m.Pairwise (fun x y => x.1 < y.1) := by
  simp [Memory.wf]

@[simp] theorem Memory.wf_nil : Memory.wf [] = true := rfl

/-- A cell of a written buffer is the new one or an old one. -/
theorem Memory.mem_write {m : Memory} {i : Nat} {c : Byte} {x : Host.Cell} (h : x ∈ m.write i c) :
    x = (i, c) ∨ x ∈ m := by
  induction m with
  | nil => simpa [Memory.write] using h
  | cons y m ih =>
    obtain ⟨a, v⟩ := y
    unfold Memory.write at h
    split at h
    · simpa using h
    · split at h
      · rcases List.mem_cons.1 h with h | h
        · exact .inl h
        · exact .inr (List.mem_cons_of_mem _ h)
      · rcases List.mem_cons.1 h with h | h
        · exact .inr (by simp [h])
        · rcases ih h with h | h
          · exact .inl h
          · exact .inr (List.mem_cons_of_mem _ h)

/-- A write keeps the canonical form. -/
theorem Memory.wf_write {m : Memory} (i : Nat) (c : Byte) (h : m.wf = true) : (m.write i c).wf = true := by
  rw [Memory.wf_iff] at h ⊢
  induction m with
  | nil => simp [Memory.write]
  | cons y m ih =>
    obtain ⟨a, v⟩ := y
    have hm := List.pairwise_cons.1 h
    unfold Memory.write
    split
    · rename_i hi
      refine List.pairwise_cons.2 ⟨fun x hx => ?_, h⟩
      rcases List.mem_cons.1 hx with rfl | hx
      · exact hi
      · exact Nat.lt_trans hi (hm.1 x hx)
    · split
      · rename_i hi
        subst hi
        exact List.pairwise_cons.2 ⟨fun x hx => hm.1 x hx, hm.2⟩
      · refine List.pairwise_cons.2 ⟨fun x hx => ?_, ih hm.2⟩
        rcases Memory.mem_write hx with rfl | hx
        · show a < i
          omega
        · exact hm.1 x hx

/-- Writing a text succeeds exactly where it fits. -/
theorem writeText_isSome (len : Nat) (cs : List Byte) (i : Nat) (m : Memory) (h : i + cs.length ≤ len) :
    ∃ m', writeText len i cs m = some m' := by
  induction cs generalizing i m with
  | nil => exact ⟨m, rfl⟩
  | cons c cs ih =>
    simp only [List.length_cons] at h
    have hi : i < len := by omega
    simpa [writeText, hi] using ih (i + 1) (m.write i c) (by omega)

/-- What a written text reads as: the text, and outside it the old characters. -/
theorem writeText_read {len : Nat} {cs : List Byte} {i : Nat} {m m' : Memory}
    (h : writeText len i cs m = some m') (j : Nat) :
    m'.read j = if i ≤ j ∧ j < i + cs.length then cs[j - i]? else m.read j := by
  induction cs generalizing i m with
  | nil =>
    simp only [writeText, Option.some.injEq] at h
    subst h
    have : ¬(i ≤ j ∧ j < i + ([] : List Byte).length) := by simp
    rw [if_neg this]
  | cons c cs ih =>
    unfold writeText at h
    split at h
    · rw [ih h, Memory.read_write]
      simp only [List.length_cons]
      by_cases hij : i = j
      · subst hij
        simp
      · by_cases hr : i + 1 ≤ j ∧ j < i + 1 + cs.length
        · have h2 : i ≤ j ∧ j < i + (cs.length + 1) := by omega
          have h3 : j - i = (j - (i + 1)) + 1 := by omega
          rw [if_pos hr, if_pos h2, h3, List.getElem?_cons_succ]
        · have h2 : ¬(i ≤ j ∧ j < i + (cs.length + 1)) := by omega
          rw [if_neg hr, if_neg h2, if_neg hij]
    · simp at h

/-- A text written into an empty buffer reads as the text. -/
theorem writeText_read_new {len : Nat} {cs : List Byte} {m : Memory}
    (h : writeText len 0 cs [] = some m) (j : Nat) : m.read j = cs[j]? := by
  rw [writeText_read h]
  by_cases hj : j < cs.length
  · simp [hj]
  · simp [hj]

theorem writeText_wf {len : Nat} {cs : List Byte} {i : Nat} {m m' : Memory}
    (h : writeText len i cs m = some m') (hm : m.wf = true) : m'.wf = true := by
  induction cs generalizing i m with
  | nil =>
    simp only [writeText, Option.some.injEq] at h
    exact h ▸ hm
  | cons c cs ih =>
    unfold writeText at h
    split at h
    · exact ih h (Memory.wf_write i c hm)
    · simp at h

theorem writeText_bound {len : Nat} {cs : List Byte} {i : Nat} {m m' : Memory}
    (h : writeText len i cs m = some m') (hm : ∀ x ∈ m, x.1 < len) : ∀ x ∈ m', x.1 < len := by
  induction cs generalizing i m with
  | nil =>
    simp only [writeText, Option.some.injEq] at h
    exact h ▸ hm
  | cons c cs ih =>
    unfold writeText at h
    split at h
    · rename_i hi
      refine ih h fun x hx => ?_
      rcases Memory.mem_write hx with rfl | hx
      · exact hi
      · exact hm x hx
    · simp at h

/-- `State.fillTxbuf` on a text that fits: the buffer holds exactly the text, in canonical form and inside its bounds, and
nothing else changes. -/
theorem State.fillTxbuf_spec (s : State) (text : List Byte) (h : text.length ≤ s.txbufLen) :
    ∃ m : Memory, s.fillTxbuf text = .next { s with txbuf := m } ∧ (∀ j, m.read j = text[j]?) ∧
      m.wf = true ∧ ∀ x ∈ m, x.1 < s.txbufLen := by
  obtain ⟨m, hm⟩ := writeText_isSome s.txbufLen text 0 [] (by omega)
  refine ⟨m, by simp [State.fillTxbuf, hm], fun j => writeText_read_new hm j, writeText_wf hm rfl,
    writeText_bound hm (by simp)⟩

/-- All that `State.fillTxbuf` can do. -/
theorem State.fillTxbuf_next {s t : State} {text : List Byte} (h : s.fillTxbuf text = .next t) :
    ∃ m : Memory, writeText s.txbufLen 0 text [] = some m ∧ t = { s with txbuf := m } := by
  unfold State.fillTxbuf at h
  split at h
  · rename_i m hm
    exact ⟨m, hm, by simpa using h.symm⟩
  · simp at h

end Sys2Proof.Machine
end

