-- ==== Sys2Proof/Laws/Ops.lean ====
section
/-! SUPPORT. The shared operations: what each can do, said once. -/

namespace Sys2Proof.Machine

/-! ### Outcomes -/

@[simp] theorem onNext_next (s : State) (f : State → State) : onNext (.next s) f = .next (f s) := rfl
@[simp] theorem onNext_fault (r : Fault) (f : State → State) : onNext (.fault r) f = .fault r := rfl
@[simp] theorem onNext_refused (r : Refusal) (f : State → State) : onNext (.refused r) f = .refused r := rfl

theorem onNext_eq_next {o : Out} {f : State → State} {t : State} :
    onNext o f = .next t ↔ ∃ u, o = .next u ∧ f u = t := by
  cases o <;> simp [onNext]

/-! ### Sampled words (R104) -/

theorem testBit_lineMask {α : Type} (f : α → Nat) (w i : Nat) (ls : List α) :
    (ls.foldr (fun l m => (if f l < w then 2 ^ f l else 0) ||| m) 0).testBit i =
      (decide (i < w) && ls.any (fun l => decide (f l = i))) := by
  induction ls with
  | nil => simp
  | cons l ls ih =>
    rw [List.foldr_cons, Nat.testBit_or, ih, List.any_cons]
    by_cases hw : f l < w
    · by_cases hi : f l = i
      · subst hi
        simp [hw, Nat.testBit_two_pow_self]
      · simp [hw, hi, Nat.testBit_two_pow_of_ne hi]
    · by_cases hi : f l = i
      · subst hi
        simp [hw]
      · simp [hw, hi]

/-- A line's bit is in the mask where it lies inside the word. -/
theorem Config.mask6_bit (c : Config) (l : Line6) :
    c.mask6.testBit (c.layout6.bit l) = decide (c.layout6.bit l < c.wSin) := by
  have h : Line6.all.any (fun k => decide (c.layout6.bit k = c.layout6.bit l)) = true :=
    List.any_eq_true.2 ⟨l, by cases l <;> decide, by simp⟩
  rw [Config.mask6, testBit_lineMask, h, Bool.and_true]

theorem Config.mask4_bit (c : Config) (l : Line4) :
    c.mask4.testBit (c.layout4.bit l) = decide (c.layout4.bit l < c.wSin) := by
  have h : Line4.all.any (fun k => decide (c.layout4.bit k = c.layout4.bit l)) = true :=
    List.any_eq_true.2 ⟨l, by cases l <;> decide, by simp⟩
  rw [Config.mask4, testBit_lineMask, h, Bool.and_true]

/-- Clearing the reserved bits changes no line. -/
@[simp] theorem Sin6.clean_asserted (c : Config) (sin : Sin6) (l : Line6) :
    (sin.clean c).asserted c l = sin.asserted c l := by
  simp only [Sin6.asserted, Sin6.clean, Nat.testBit_and, Config.mask6_bit]
  cases decide (c.layout6.bit l < c.wSin) <;> simp

@[simp] theorem Sin4.clean_asserted (c : Config) (sin : Sin4) (l : Line4) :
    (sin.clean c).asserted c l = sin.asserted c l := by
  simp only [Sin4.asserted, Sin4.clean, Nat.testBit_and, Config.mask4_bit]
  cases decide (c.layout4.bit l < c.wSin) <;> simp

@[simp] theorem classify6_clean (c : Config) (p : BitVec 4) (sin : Sin6) :
    classify6 c p (sin.clean c) = classify6 c p sin := by
  simp [classify6]

@[simp] theorem classify4_clean (c : Config) (p : BitVec 4) (sin : Sin4) :
    classify4 c p (sin.clean c) = classify4 c p sin := by
  simp [classify4]

@[simp] theorem digit6_clean (c : Config) (sin : Sin6) : digit6 c (sin.clean c) = digit6 c sin := by
  simp [digit6]

@[simp] theorem digit4_clean (c : Config) (sin : Sin4) : digit4 c (sin.clean c) = digit4 c sin := by
  simp [digit4]

@[simp] theorem Dec6.capture_clean (c : Config) (n : Fin 6) (sin : Sin6) (d : Dec6) :
    Dec6.capture c n (sin.clean c) d = Dec6.capture c n sin d := by
  simp [Dec6.capture]

@[simp] theorem Dec4.capture_clean (c : Config) (k : Fin 4) (sin : Sin4) (d : Dec4) :
    Dec4.capture c k (sin.clean c) d = Dec4.capture c k sin d := by
  simp [Dec4.capture]

/-! ### Decoder classes -/

/-- A selected V6 class has its effect. -/
theorem onClass6_selected {c : Class6} {sin : Sin6} {s : State} {d : Dec6} (f : Dec6 → Dec6) (hd : s.dec = .v6 d)
    (hc : classify6 s.cfg d.nextDigit sin = some c) :
    onClass6 c sin s f = .next { s with dec := .v6 (f d) } := by
  simp [onClass6, hd, hc]

theorem onClass4_selected {c : Class4} {sin : Sin4} {s : State} {d : Dec4} (f : Dec4 → Dec4) (hd : s.dec = .v4 d)
    (hc : classify4 s.cfg d.nextDigit sin = some c) :
    onClass4 c sin s f = .next { s with dec := .v4 (f d) } := by
  simp [onClass4, hd, hc]

/-- All that a V6 class can do. -/
theorem onClass6_next {c : Class6} {sin : Sin6} {s t : State} {f : Dec6 → Dec6} (h : onClass6 c sin s f = .next t) :
    ∃ d, s.dec = .v6 d ∧ classify6 s.cfg d.nextDigit sin = some c ∧ t = { s with dec := .v6 (f d) } := by
  unfold onClass6 at h
  split at h
  · simp at h
  · rename_i d hd
    split at h
    · simp at h
    · rename_i c' hc
      split at h
      · rename_i hcc
        subst hcc
        exact ⟨d, hd, hc, by simpa using h.symm⟩
      · simp at h

theorem onClass4_next {c : Class4} {sin : Sin4} {s t : State} {f : Dec4 → Dec4} (h : onClass4 c sin s f = .next t) :
    ∃ d, s.dec = .v4 d ∧ classify4 s.cfg d.nextDigit sin = some c ∧ t = { s with dec := .v4 (f d) } := by
  unfold onClass4 at h
  split at h
  · simp at h
  · rename_i d hd
    split at h
    · simp at h
    · rename_i c' hc
      split at h
      · rename_i hcc
        subst hcc
        exact ⟨d, hd, hc, by simpa using h.symm⟩
      · simp at h

/-- The writes of a V6 class (R122 to R127). -/
def effect6 (c : Config) (sin : Sin6) : Class6 → Dec6 → Dec6
  | .idleHold, d => d
  | .sync, _ => ⟨0, 0, 0⟩
  | .frozen, d => d
  | .abort, _ => ⟨0, 0, c.idle⟩
  | .capture n, d => Dec6.capture c n sin d
  | .hold _, d => d

/-- The writes of a V4 class (R142 to R147). -/
def effect4 (c : Config) (sin : Sin4) : Class4 → Dec4 → Dec4
  | .idleHold, d => d
  | .sync, _ => ⟨0, 0, 0⟩
  | .frozen, d => d
  | .abort, _ => ⟨0, 0, c.idle⟩
  | .capture k, d => Dec4.capture c k sin d
  | .hold _, d => d

/-- Every V6 class row is the shared class operation with its own writes. -/
theorem exec_class6 (c : Class6) (sin : Sin6) (s : State) :
    exec (c.instr sin) s = onClass6 c sin s (effect6 s.cfg sin c) := by
  cases c with
  | capture n => fin_cases n <;> rfl
  | hold n => fin_cases n <;> rfl
  | idleHold => rfl
  | sync => rfl
  | frozen => rfl
  | abort => rfl

theorem exec_class4 (c : Class4) (sin : Sin4) (s : State) :
    exec (c.instr sin) s = onClass4 c sin s (effect4 s.cfg sin c) := by
  cases c with
  | capture n => fin_cases n <;> rfl
  | hold n => fin_cases n <;> rfl
  | idleHold => rfl
  | sync => rfl
  | frozen => rfl
  | abort => rfl

/-- `DEC6.STEP` in an unreserved phase is the class operation that R100 selects. -/
theorem exec_dec6Step_class {s : State} {d : Dec6} {sin : Sin6} {c : Class6} (hd : s.dec = .v6 d)
    (hc : classify6 s.cfg d.nextDigit sin = some c) :
    exec (.dec6Step sin) s = exec (c.instr sin) s := by
  show execDec6Step sin s = _
  unfold execDec6Step
  rw [hd]
  simp only [hc]
  cases c with
  | capture n => fin_cases n <;> rfl
  | hold n => fin_cases n <;> rfl
  | idleHold => rfl
  | sync => rfl
  | frozen => rfl
  | abort => rfl

/-- `DEC6.STEP` in an unreserved phase has the writes of the class that R100 selects. -/
theorem exec_dec6Step {s : State} {d : Dec6} {sin : Sin6} {c : Class6} (hd : s.dec = .v6 d)
    (hc : classify6 s.cfg d.nextDigit sin = some c) :
    exec (.dec6Step sin) s = .next { s with dec := .v6 (effect6 s.cfg sin c d) } := by
  rw [exec_dec6Step_class hd hc, exec_class6, onClass6_selected _ hd hc]

/-- `DEC4.STEP` in an unreserved phase is the class operation that R100 selects. -/
theorem exec_dec4Step_class {s : State} {d : Dec4} {sin : Sin4} {c : Class4} (hd : s.dec = .v4 d)
    (hc : classify4 s.cfg d.nextDigit sin = some c) :
    exec (.dec4Step sin) s = exec (c.instr sin) s := by
  show execDec4Step sin s = _
  unfold execDec4Step
  rw [hd]
  simp only [hc]
  cases c with
  | capture n => fin_cases n <;> rfl
  | hold n => fin_cases n <;> rfl
  | idleHold => rfl
  | sync => rfl
  | frozen => rfl
  | abort => rfl

theorem exec_dec4Step {s : State} {d : Dec4} {sin : Sin4} {c : Class4} (hd : s.dec = .v4 d)
    (hc : classify4 s.cfg d.nextDigit sin = some c) :
    exec (.dec4Step sin) s = .next { s with dec := .v4 (effect4 s.cfg sin c d) } := by
  rw [exec_dec4Step_class hd hc, exec_class4, onClass4_selected _ hd hc]

/-- All that `DEC6.STEP` can do. -/
theorem exec_dec6Step_next {s t : State} {sin : Sin6} (h : exec (.dec6Step sin) s = .next t) :
    ∃ d c, s.dec = .v6 d ∧ classify6 s.cfg d.nextDigit sin = some c ∧
      t = { s with dec := .v6 (effect6 s.cfg sin c d) } := by
  cases hd : s.dec with
  | v4 d => simp [exec, execDec6Step, hd] at h
  | v6 d =>
    cases hc : classify6 s.cfg d.nextDigit sin with
    | none => simp [exec, execDec6Step, hd, hc] at h
    | some c =>
      rw [exec_dec6Step hd hc] at h
      exact ⟨d, c, rfl, hc, by simpa using h.symm⟩

theorem exec_dec4Step_next {s t : State} {sin : Sin4} (h : exec (.dec4Step sin) s = .next t) :
    ∃ d c, s.dec = .v4 d ∧ classify4 s.cfg d.nextDigit sin = some c ∧
      t = { s with dec := .v4 (effect4 s.cfg sin c d) } := by
  cases hd : s.dec with
  | v6 d => simp [exec, execDec4Step, hd] at h
  | v4 d =>
    cases hc : classify4 s.cfg d.nextDigit sin with
    | none => simp [exec, execDec4Step, hd, hc] at h
    | some c =>
      rw [exec_dec4Step hd hc] at h
      exact ⟨d, c, rfl, hc, by simpa using h.symm⟩

/-- Which phases and words select a V6 class (R100). -/
theorem classify6_some {cfg : Config} {p : BitVec 4} {sin : Sin6} {c : Class6}
    (h : classify6 cfg p sin = some c) :
    match c with
    | .idleHold => p = cfg.idle ∧ sin.asserted cfg .mup = true
    | .sync => p = cfg.idle ∧ sin.asserted cfg .mup = false
    | .frozen => p = 6
    | .abort => p.toNat < 6 ∧ sin.asserted cfg .mup = true
    | .capture n => p.toNat = n.val ∧ sin.asserted cfg .mup = false ∧ sin.asserted cfg (strobe6 n) = true
    | .hold n => p.toNat = n.val ∧ sin.asserted cfg .mup = false ∧ sin.asserted cfg (strobe6 n) = false := by
  unfold classify6 at h
  split at h
  · split at h <;> simp only [Option.some.injEq] at h <;> subst h <;> simp_all
  · split at h
    · simp only [Option.some.injEq] at h; subst h; assumption
    · split at h
      · split at h
        · simp only [Option.some.injEq] at h; subst h; simp_all
        · split at h <;> simp only [Option.some.injEq] at h <;> subst h <;> simp_all
      · simp at h

theorem classify4_some {cfg : Config} {p : BitVec 4} {sin : Sin4} {c : Class4}
    (h : classify4 cfg p sin = some c) :
    match c with
    | .idleHold => p = cfg.idle ∧ sin.asserted cfg .mup = true
    | .sync => p = cfg.idle ∧ sin.asserted cfg .mup = false
    | .frozen => p = 4
    | .abort => p.toNat < 4 ∧ sin.asserted cfg .mup = true
    | .capture n => p.toNat = n.val ∧ sin.asserted cfg .mup = false ∧ sin.asserted cfg (strobe4 n) = true
    | .hold n => p.toNat = n.val ∧ sin.asserted cfg .mup = false ∧ sin.asserted cfg (strobe4 n) = false := by
  unfold classify4 at h
  split at h
  · split at h <;> simp only [Option.some.injEq] at h <;> subst h <;> simp_all
  · split at h
    · simp only [Option.some.injEq] at h; subst h; assumption
    · split at h
      · split at h
        · simp only [Option.some.injEq] at h; subst h; simp_all
        · split at h <;> simp only [Option.some.injEq] at h <;> subst h <;> simp_all
      · simp at h

/-- The class in a capturing phase: `MUP` first, then the expected strobe (R100). -/
theorem classify6_capturing {cfg : Config} {p : BitVec 4} (hi : 7 ≤ cfg.idle.toNat) (sin : Sin6) (n : Fin 6)
    (hp : p.toNat = n.val) :
    classify6 cfg p sin =
      if sin.asserted cfg .mup then some .abort
      else if sin.asserted cfg (strobe6 n) then some (.capture n) else some (.hold n) := by
  have h1 : p ≠ cfg.idle := by rintro rfl; omega
  have h2 : p ≠ 6 := by rintro rfl; simp at hp; omega
  rw [classify6, if_neg h1, if_neg h2, dif_pos (by omega)]
  simp only [hp]

theorem classify6_idle (cfg : Config) (sin : Sin6) :
    classify6 cfg cfg.idle sin = if sin.asserted cfg .mup then some .idleHold else some .sync := if_pos rfl

theorem classify6_complete {cfg : Config} (hi : 7 ≤ cfg.idle.toNat) (sin : Sin6) :
    classify6 cfg 6 sin = some .frozen := by
  have h1 : ((6 : BitVec 4)) ≠ cfg.idle := fun h => by rw [← h] at hi; revert hi; decide
  rw [classify6, if_neg h1, if_pos rfl]

theorem classify6_reserved {cfg : Config} {p : BitVec 4} (sin : Sin6) (h1 : 7 ≤ p.toNat) (h2 : p ≠ cfg.idle) :
    classify6 cfg p sin = none := by
  have h4 : p ≠ 6 := by rintro rfl; revert h1; decide
  rw [classify6, if_neg h2, if_neg h4, dif_neg (by omega)]

/-- An unreserved V6 phase always selects a class. -/
theorem classify6_total (cfg : Config) (p : BitVec 4) (sin : Sin6) (h : p.toNat ≤ 6 ∨ p = cfg.idle) :
    ∃ c, classify6 cfg p sin = some c := by
  unfold classify6
  split
  · split <;> exact ⟨_, rfl⟩
  · split
    · exact ⟨_, rfl⟩
    · rename_i h1 h2
      have : p.toNat < 6 := by
        have : p.toNat ≠ 6 := fun h => h2 (by apply BitVec.eq_of_toNat_eq; simpa using h)
        rcases h with h | h
        · omega
        · exact absurd h h1
      rw [dif_pos this]
      split
      · exact ⟨_, rfl⟩
      · split <;> exact ⟨_, rfl⟩

/-- The class in a capturing phase: `MUP` first, then the expected strobe (R100). -/
theorem classify4_capturing {cfg : Config} {p : BitVec 4} (hi : 7 ≤ cfg.idle.toNat) (sin : Sin4) (n : Fin 4)
    (hp : p.toNat = n.val) :
    classify4 cfg p sin =
      if sin.asserted cfg .mup then some .abort
      else if sin.asserted cfg (strobe4 n) then some (.capture n) else some (.hold n) := by
  have h1 : p ≠ cfg.idle := by rintro rfl; omega
  have h2 : p ≠ 4 := by rintro rfl; simp at hp; omega
  rw [classify4, if_neg h1, if_neg h2, dif_pos (by omega)]
  simp only [hp]

theorem classify4_idle (cfg : Config) (sin : Sin4) :
    classify4 cfg cfg.idle sin = if sin.asserted cfg .mup then some .idleHold else some .sync := if_pos rfl

theorem classify4_complete {cfg : Config} (hi : 7 ≤ cfg.idle.toNat) (sin : Sin4) :
    classify4 cfg 4 sin = some .frozen := by
  have h1 : ((4 : BitVec 4)) ≠ cfg.idle := fun h => by rw [← h] at hi; revert hi; decide
  rw [classify4, if_neg h1, if_pos rfl]

theorem classify4_reserved {cfg : Config} {p : BitVec 4} (sin : Sin4) (h1 : 5 ≤ p.toNat) (h2 : p ≠ cfg.idle) :
    classify4 cfg p sin = none := by
  have h4 : p ≠ 4 := by rintro rfl; revert h1; decide
  rw [classify4, if_neg h2, if_neg h4, dif_neg (by omega)]

theorem classify4_total (cfg : Config) (p : BitVec 4) (sin : Sin4) (h : p.toNat ≤ 4 ∨ p = cfg.idle) :
    ∃ c, classify4 cfg p sin = some c := by
  unfold classify4
  split
  · split <;> exact ⟨_, rfl⟩
  · split
    · exact ⟨_, rfl⟩
    · rename_i h1 h2
      have : p.toNat < 4 := by
        have : p.toNat ≠ 4 := fun h => h2 (by apply BitVec.eq_of_toNat_eq; simpa using h)
        rcases h with h | h
        · omega
        · exact absurd h h1
      rw [dif_pos this]
      split
      · exact ⟨_, rfl⟩
      · split <;> exact ⟨_, rfl⟩

/-! ### Registers of `W_READING` bits (R8) -/

/-- A register wide enough keeps the value. -/
theorem inWidth_eq {n w : Nat} (v : BitVec n) (h : n ≤ w) : inWidth w v = v := by
  apply BitVec.eq_of_toNat_eq
  have h1 := v.isLt
  have h2 : 2 ^ n ≤ 2 ^ w := Nat.pow_le_pow_right (by decide) h
  rw [inWidth, BitVec.toNat_setWidth, BitVec.toNat_setWidth, Nat.mod_eq_of_lt (a := v.toNat) (by omega), Nat.mod_eq_of_lt h1]

theorem inWidth_toNat_le {n : Nat} (w : Nat) (v : BitVec n) : (inWidth w v).toNat ≤ v.toNat := by
  rw [inWidth, BitVec.toNat_setWidth, BitVec.toNat_setWidth]
  exact Nat.le_trans (Nat.mod_le _ _) (Nat.mod_le _ _)

theorem inWidth_bit {n : Nat} (w : Nat) (v : BitVec n) (i : Nat) :
    (inWidth w v).getLsbD i = (decide (i < w) && v.getLsbD i) := by
  by_cases hi : i < n
  · simp [inWidth, BitVec.getLsbD_setWidth, hi]
  · simp [inWidth, BitVec.getLsbD_setWidth, hi, BitVec.getLsbD_of_ge v i (by omega)]

/-- A nibble that is 0 stays 0 in a register of any width. -/
theorem nibble_inWidth_zero {n : Nat} (w : Nat) {v : BitVec n} {j : Nat} (h : nibble v j = 0) : nibble (inWidth w v) j = 0 := by
  apply BitVec.eq_of_getLsbD_eq
  intro i hi
  have := congrArg (·.getLsbD i) h
  simp only [nibble, BitVec.getLsbD_extractLsb', hi, decide_true, Bool.true_and, inWidth_bit] at this ⊢
  rw [this]
  simp

/-! ### Nibbles (R145) -/

/-- The replaced nibble reads as the new value, every other one as before. -/
theorem nibble_setNibble (v : BitVec 16) (x : BitVec 4) (i j : Fin 4) :
    nibble (setNibble v i.val x) j.val = if j = i then x else nibble v j.val := by
  fin_cases i <;> fin_cases j <;>
    (apply BitVec.eq_of_getLsbD_eq; intro k hk; interval_cases k <;> simp [nibble, setNibble])

/-- The place of each arrival's nibble (R149). -/
theorem fill4_values (num : Numbering4) (k : Fin 4) :
    fill4 num k = match num, k with
      | .lsdFirst, 0 => 0
      | .lsdFirst, 1 => 2
      | .lsdFirst, 2 => 1
      | .lsdFirst, 3 => 3
      | .msdFirst, 0 => 3
      | .msdFirst, 1 => 1
      | .msdFirst, 2 => 2
      | .msdFirst, 3 => 0 := by
  cases num <;> fin_cases k <;> rfl

theorem fill4_lt (num : Numbering4) (k : Fin 4) : fill4 num k < 4 := by
  cases num <;> fin_cases k <;> decide

theorem fill4_injective {num : Numbering4} {j k : Fin 4} (h : fill4 num j = fill4 num k) : j = k := by
  revert h
  cases num <;> fin_cases j <;> fin_cases k <;> decide

/-! ### Line sets -/

theorem lineIn_union (l : Line) (a b : LineSet) : lineIn l (lineUnion a b) = (lineIn l a || lineIn l b) := by
  simp [lineIn, lineUnion, BitVec.getLsbD_or]

theorem lineIn_inter (l : Line) (a b : LineSet) : lineIn l (lineInter a b) = (lineIn l a && lineIn l b) := by
  simp [lineIn, lineInter, BitVec.getLsbD_and]

@[simp] theorem lineIn_noLines (l : Line) : lineIn l noLines = false := by
  simp [lineIn, noLines]

theorem lineIndex_lt (l : Line) : lineIndex l < 24 := by
  cases l with
  | v6 l => cases l <;> decide
  | v4 l => cases l <;> decide

theorem lineIndex_injective {k l : Line} (h : lineIndex k = lineIndex l) : k = l := by
  revert h
  cases k with
  | v6 k => cases l with
    | v6 l => cases k <;> cases l <;> simp [lineIndex]
    | v4 l => cases k <;> cases l <;> simp [lineIndex]
  | v4 k => cases l with
    | v6 l => cases k <;> cases l <;> simp [lineIndex]
    | v4 l => cases k <;> cases l <;> simp [lineIndex]

theorem lineIn_lineSet (l : Line) (ls : List Line) : lineIn l (lineSet ls) = decide (l ∈ ls) := by
  induction ls with
  | nil => simp [lineIn, lineSet]
  | cons k ls ih =>
    have h1 : lineIn l (lineSet (k :: ls)) = (decide (l = k) || lineIn l (lineSet ls)) := by
      have : (BitVec.twoPow 24 (lineIndex k)).getLsbD (lineIndex l) = decide (l = k) := by
        rw [BitVec.getLsbD_twoPow]
        by_cases h : l = k
        · subst h; simp [lineIndex_lt]
        · have : lineIndex l ≠ lineIndex k := fun e => h (lineIndex_injective e)
          have h' : ¬lineIndex k = lineIndex l := fun e => this e.symm
          simp [h, h']
      simp [lineIn, lineSet, BitVec.getLsbD_or, this]
    rw [h1, ih]
    simp [List.mem_cons]

/-! ### Transmitter -/

/-- All that `TX.LOAD` can do. -/
theorem State.txLoadNext_next {s t : State} (h : s.txLoadNext = .next t) :
    ∃ c, s.tx.idx.toNat < s.txbufLen ∧ s.txbuf.read s.tx.idx.toNat = some c ∧
      t = if c = 0 then s.txFinished else { s with tx := { s.tx with sr := frameLoad c, cnt := 9 } } := by
  unfold State.txLoadNext State.memRead at h
  split at h
  · simp at h
  · split at h
    · rename_i hlt
      split at h
      · rename_i c hc
        refine ⟨c, hlt, hc, ?_⟩
        by_cases h0 : c = 0
        · simp only [h0, if_true, Host.Outcome.next.injEq] at h ⊢
          exact h.symm
        · simp only [h0, if_false, Host.Outcome.next.injEq] at h ⊢
          exact h.symm
      · simp at h
    · simp at h

/-- `TX.LOAD` of a written character inside the buffer. -/
theorem State.txLoadNext_spec {s : State} {c : Byte} (hi : s.tx.idx.toNat < s.txbufLen)
    (hc : s.txbuf.read s.tx.idx.toNat = some c) :
    s.txLoadNext = .next (if c = 0 then s.txFinished
      else { s with tx := { s.tx with sr := frameLoad c, cnt := 9 } }) := by
  have : s.tx.idx.toNat ≠ s.txbufLen := by omega
  simp only [State.txLoadNext, if_neg this, State.memRead, if_pos hi, hc]
  split <;> rfl

/-- All that `TX.SEND` can do. -/
theorem execTxSend_next {s t : State} (h : execTxSend s = .next t) :
    s.tx.busy = false ∧ s.hasTerminator = true ∧
      State.txLoadNext { s with tx := ⟨true, 0x1FF, 0, 0⟩, txd := true, gap := 0 } = .next t := by
  unfold execTxSend at h
  split at h
  · simp at h
  · split at h
    · rename_i h1 h2
      exact ⟨by simpa using h1, h2, h⟩
    · simp at h

theorem State.hasTerminator_iff (s : State) :
    s.hasTerminator = true ↔ ∃ i < s.txbufLen, s.txbuf.read i = some 0 := by
  simp [State.hasTerminator, List.any_eq_true, List.mem_range]

end Sys2Proof.Machine
end

