-- ==== Sys2Proof/Laws/Exec.lean ====
section
/-! SUPPORT. What each operation can do, said once: the inversion lemmas that a proof over all operations cites, and
the case analysis over operations with the decoder classes taken together. -/

namespace Sys2Proof.Machine

theorem exec_class6_next {c : Class6} {sin : Sin6} {s t : State} (h : exec (c.instr sin) s = .next t) :
    ∃ d, s.dec = .v6 d ∧ classify6 s.cfg d.nextDigit sin = some c ∧
      t = { s with dec := .v6 (effect6 s.cfg sin c d) } := by
  rw [exec_class6] at h
  exact onClass6_next h

theorem exec_class4_next {c : Class4} {sin : Sin4} {s t : State} (h : exec (c.instr sin) s = .next t) :
    ∃ d, s.dec = .v4 d ∧ classify4 s.cfg d.nextDigit sin = some c ∧
      t = { s with dec := .v4 (effect4 s.cfg sin c d) } := by
  rw [exec_class4] at h
  exact onClass4_next h

theorem exec_dec6Reset_next {s t : State} (h : exec .dec6Reset s = .next t) :
    (∃ d, s.dec = .v6 d) ∧ t = { s with dec := s.dec.cleared s.cfg } := by
  simp only [exec, execDec6Reset] at h
  split at h
  · rename_i d hd
    exact ⟨⟨d, hd⟩, by simpa using h.symm⟩
  · simp at h

theorem exec_dec4Reset_next {s t : State} (h : exec .dec4Reset s = .next t) :
    (∃ d, s.dec = .v4 d) ∧ t = { s with dec := s.dec.cleared s.cfg } := by
  simp only [exec, execDec4Reset] at h
  split at h
  · rename_i d hd
    exact ⟨⟨d, hd⟩, by simpa using h.symm⟩
  · simp at h

/-- All that `FMT6` can do. -/
theorem execFmt6_next {r : BitVec 24} {p : BitVec 3} {aux : Sin6} {s t : State} (h : execFmt6 r p aux s = .next t) :
    (∃ d, s.dec = .v6 d) ∧ p.toNat ≤ 6 ∧ ∃ m, writeText s.txbufLen 0 (text6 s.cfg s.env.draws r p aux) [] = some m ∧
      t = { s.drawn 6 with txbuf := m } := by
  unfold execFmt6 at h
  split at h
  · simp at h
  · rename_i d hd
    split at h
    · rename_i hp
      obtain ⟨m, hm, rfl⟩ := State.fillTxbuf_next h
      exact ⟨⟨d, hd⟩, hp, m, by simpa using hm, rfl⟩
    · simp at h

/-- All that `FMT4` can do. -/
theorem execFmt4_next {r : BitVec 16} {s t : State} (h : execFmt4 r s = .next t) :
    (∃ d, s.dec = .v4 d) ∧ ∃ m, writeText s.txbufLen 0 (text4 s.cfg s.env.draws r) [] = some m ∧
      t = { s.drawn 3 with txbuf := m } := by
  unfold execFmt4 at h
  split at h
  · simp at h
  · rename_i d hd
    obtain ⟨m, hm, rfl⟩ := State.fillTxbuf_next h
    exact ⟨⟨d, hd⟩, m, by simpa using hm, rfl⟩

/-- All that a formatter can do: it writes `txbuf` and draws free glyphs. -/
theorem fmt_frame {s t : State} (h : (∃ r p aux, execFmt6 r p aux s = .next t) ∨ ∃ r, execFmt4 r s = .next t) :
    ∃ m n text, writeText s.txbufLen 0 text [] = some m ∧ t = { s.drawn n with txbuf := m } := by
  rcases h with ⟨r, p, aux, h⟩ | ⟨r, h⟩
  · obtain ⟨-, -, m, hm, rfl⟩ := execFmt6_next h
    exact ⟨m, 6, _, hm, rfl⟩
  · obtain ⟨-, m, hm, rfl⟩ := execFmt4_next h
    exact ⟨m, 3, _, hm, rfl⟩

/-- All that `TX.TICK` can do. -/
theorem execTxTick_next {s t : State} (h : execTxTick s = .next t) :
    s.tx.busy = true ∧ s.tx.cnt ≠ 0 ∧
      t = { s with
        txd := s.tx.sr.getLsbD 0
        gap := if s.tx.cnt = 1 then s.gapAfterFrame else s.gap
        wire := s.wire ++ [s.tx.sr.getLsbD 0]
        tx := { s.tx with
          sr := 1#1 ++ s.tx.sr.extractLsb' 1 8
          cnt := s.tx.cnt - 1
          idx := if s.tx.cnt = 1 then s.tx.idx + 1 else s.tx.idx } } := by
  unfold execTxTick at h
  split at h
  · rename_i hb
    simp only [Bool.and_eq_true, bne_iff_ne, ne_eq] at hb
    simp only [Host.Outcome.next.injEq] at h
    exact ⟨hb.1, hb.2, h.symm⟩
  · simp at h

/-- `TX.TICK` where it is enabled. -/
theorem execTxTick_spec {s : State} (hb : s.tx.busy = true) (hc : s.tx.cnt ≠ 0) :
    execTxTick s = .next { s with
        txd := s.tx.sr.getLsbD 0
        gap := if s.tx.cnt = 1 then s.gapAfterFrame else s.gap
        wire := s.wire ++ [s.tx.sr.getLsbD 0]
        tx := { s.tx with
          sr := 1#1 ++ s.tx.sr.extractLsb' 1 8
          cnt := s.tx.cnt - 1
          idx := if s.tx.cnt = 1 then s.tx.idx + 1 else s.tx.idx } } := by
  rw [execTxTick, if_pos (by simpa [hb] using hc)]
  rfl

/-- What `TX.LOAD` leaves alone. -/
theorem txLoadNext_frame {s t : State} (h : s.txLoadNext = .next t) :
    ∃ x b, t = { s with tx := x, txd := b } ∧ (b = s.txd ∨ b = true) := by
  obtain ⟨c, -, -, rfl⟩ := State.txLoadNext_next h
  split
  · exact ⟨{ s.tx with busy := false }, true, rfl, .inr rfl⟩
  · exact ⟨_, s.txd, rfl, .inl rfl⟩

/-- What `TX.SEND` leaves alone. -/
theorem execTxSend_frame {s t : State} (h : execTxSend s = .next t) : ∃ x b, t = { s with tx := x, txd := b, gap := 0 } := by
  obtain ⟨-, -, h⟩ := execTxSend_next h
  obtain ⟨x, b, rfl, -⟩ := txLoadNext_frame h
  exact ⟨x, b, rfl⟩

/-- All that `SEQ.ARM` can do. -/
theorem execSeqArm_next {s t : State} (h : execSeqArm s = .next t) :
    ∃ r x, relevant s.cfg s.dec = some r ∧ t = ({ s with ie := lineUnion r x }.drawn 1).goTo .sleep := by
  unfold execSeqArm at h
  split at h
  · rename_i r hr
    exact ⟨r, _, hr, by simpa using h.symm⟩
  · simp at h

/-- All that `SEQ.STEP` can do. -/
theorem execSeqStep_next {s t : State} (h : execSeqStep s = .next t) :
    ∃ u, ((∃ d, s.dec = .v6 d) ∧ exec (.dec6Step ⟨s.seq.sample⟩) s = .next u ∨
          (∃ d, s.dec = .v4 d) ∧ exec (.dec4Step ⟨s.seq.sample⟩) s = .next u) ∧ t = u.afterStep := by
  unfold execSeqStep at h
  obtain ⟨u, hu, rfl⟩ := onNext_eq_next.1 h
  refine ⟨u, ?_, rfl⟩
  split at hu
  · rename_i d hd
    exact .inl ⟨⟨d, hd⟩, hu⟩
  · rename_i d hd
    exact .inr ⟨⟨d, hd⟩, hu⟩

/-- All that `SEQ.FORMAT` can do. -/
theorem execSeqFormat_next {s t : State} (h : execSeqFormat s = .next t) :
    ∃ m n text, writeText s.txbufLen 0 text [] = some m ∧ t = ({ s.drawn n with txbuf := m }).goTo .transmit := by
  unfold execSeqFormat at h
  obtain ⟨u, hu, rfl⟩ := onNext_eq_next.1 h
  split at hu
  · obtain ⟨m, n, text, hm, rfl⟩ := fmt_frame (.inl ⟨_, _, _, hu⟩)
    exact ⟨m, n, text, hm, rfl⟩
  · obtain ⟨m, n, text, hm, rfl⟩ := fmt_frame (.inr ⟨_, hu⟩)
    exact ⟨m, n, text, hm, rfl⟩

/-- All that `SEQ.TRANSMIT` can do. -/
theorem execSeqTransmit_next {s t : State} (h : execSeqTransmit s = .next t) :
    ∃ u, execTxSend s = .next u ∧ t = u.goTo .rearm := by
  obtain ⟨u, hu, rfl⟩ := onNext_eq_next.1 h
  exact ⟨u, hu, rfl⟩

/-- All that `IRQ.EDGE` can do. -/
theorem execIrqEdge_next {l : Line} {s t : State} (h : execIrqEdge l s = .next t) :
    t = if lineIn l s.ie then { s with ifg := lineUnion s.ifg (lineSet [l]) } else s := by
  unfold execIrqEdge at h
  split at h <;> rename_i hl <;> simp only [Host.Outcome.next.injEq] at h <;> subst h <;> simp [hl]

/-- All that `WDT.RESET` can do. -/
theorem execWdtReset_next {s t : State} (h : execWdtReset s = .next t) : s.wdtEnabled = true ∧ t = s.fullReset := by
  unfold execWdtReset at h
  split at h
  · rename_i he
    exact ⟨he, by simpa using h.symm⟩
  · simp at h

/-- All that `SEQ.SLEEP` can do. -/
theorem execSeqSleep_next {s t : State} (h : execSeqSleep s = .next t) :
    t = if s.awake then { s with awake := false, seq := { s.seq with asleep := false, pos := .wake } }
      else { s with seq := { s.seq with asleep := true } } := by
  unfold execSeqSleep at h
  split at h <;> rename_i ha <;> simp only [Host.Outcome.next.injEq] at h <;> simp [ha, ← h, State.goTo]

/-- Case analysis over the operations, the 28 class rows taken together by their class. -/
theorem instr_cases {P : Instr → Prop} (class6 : ∀ (c : Class6) sin, P (c.instr sin))
    (class4 : ∀ (c : Class4) sin, P (c.instr sin)) (dec6Step : ∀ sin, P (.dec6Step sin))
    (dec4Step : ∀ sin, P (.dec4Step sin)) (dec6Reset : P .dec6Reset) (dec4Reset : P .dec4Reset)
    (fmt6 : ∀ r p a, P (.fmt6 r p a)) (fmt4 : ∀ r, P (.fmt4 r)) (txSend : P .txSend) (txLoad : P .txLoad)
    (txTick : P .txTick) (txDone : P .txDone) (seqInit : P .seqInit) (seqArm : P .seqArm) (seqSleep : P .seqSleep)
    (seqWake : P .seqWake) (seqSample : P .seqSample) (seqStep : P .seqStep) (seqAux : P .seqAux)
    (seqFormat : P .seqFormat) (seqTransmit : P .seqTransmit) (seqRearm : P .seqRearm)
    (irqEdge : ∀ l, P (.irqEdge l)) (irqHandle : P .irqHandle) (wdtReset : P .wdtReset) : ∀ i, P i
  | .dec6IdleHold sin => class6 .idleHold sin
  | .dec6Sync sin => class6 .sync sin
  | .dec6Frozen sin => class6 .frozen sin
  | .dec6Abort sin => class6 .abort sin
  | .dec6Capture1 sin => class6 (.capture 0) sin
  | .dec6Capture2 sin => class6 (.capture 1) sin
  | .dec6Capture3 sin => class6 (.capture 2) sin
  | .dec6Capture4 sin => class6 (.capture 3) sin
  | .dec6Capture5 sin => class6 (.capture 4) sin
  | .dec6Capture6 sin => class6 (.capture 5) sin
  | .dec6Hold1 sin => class6 (.hold 0) sin
  | .dec6Hold2 sin => class6 (.hold 1) sin
  | .dec6Hold3 sin => class6 (.hold 2) sin
  | .dec6Hold4 sin => class6 (.hold 3) sin
  | .dec6Hold5 sin => class6 (.hold 4) sin
  | .dec6Hold6 sin => class6 (.hold 5) sin
  | .dec4IdleHold sin => class4 .idleHold sin
  | .dec4Sync sin => class4 .sync sin
  | .dec4Frozen sin => class4 .frozen sin
  | .dec4Abort sin => class4 .abort sin
  | .dec4Capture1 sin => class4 (.capture 0) sin
  | .dec4Capture2 sin => class4 (.capture 1) sin
  | .dec4Capture3 sin => class4 (.capture 2) sin
  | .dec4Capture4 sin => class4 (.capture 3) sin
  | .dec4Hold1 sin => class4 (.hold 0) sin
  | .dec4Hold2 sin => class4 (.hold 1) sin
  | .dec4Hold3 sin => class4 (.hold 2) sin
  | .dec4Hold4 sin => class4 (.hold 3) sin
  | .dec6Step sin => dec6Step sin
  | .dec4Step sin => dec4Step sin
  | .dec6Reset => dec6Reset
  | .dec4Reset => dec4Reset
  | .fmt6 r p a => fmt6 r p a
  | .fmt4 r => fmt4 r
  | .txSend => txSend
  | .txLoad => txLoad
  | .txTick => txTick
  | .txDone => txDone
  | .seqInit => seqInit
  | .seqArm => seqArm
  | .seqSleep => seqSleep
  | .seqWake => seqWake
  | .seqSample => seqSample
  | .seqStep => seqStep
  | .seqAux => seqAux
  | .seqFormat => seqFormat
  | .seqTransmit => seqTransmit
  | .seqRearm => seqRearm
  | .irqEdge l => irqEdge l
  | .irqHandle => irqHandle
  | .wdtReset => wdtReset

end Sys2Proof.Machine
end

