-- ==== Sys2Proof/Laws/Fmt.lean ====
section
/-! SUPPORT. The formatter and the transmitter's frame: lengths, character sets, and where the two formatters complete. -/

namespace Sys2Proof.Machine

/-! ### Characters -/

theorem char8_ascii (c : Char7) : (char8 c).getLsbD 7 = false := by
  simp [char8]

/-- Every digit character is 7-bit, whatever the free glyph (R187). -/
theorem glyph_ascii (free : Char7) (v : BitVec 4) : (glyph free v).getLsbD 7 = false := by
  unfold glyph
  split
  · revert v
    decide
  · exact char8_ascii free

theorem glyph_digit (free : Char7) {v : BitVec 4} (h : v.toNat ≤ 9) : glyph free v = 0x30 + v.setWidth 8 :=
  if_pos h

/-! ### Lengths (R186) -/

/-- The bounds that a valid configuration gives. -/
theorem valid_bounds {c : Config} (h : c.valid = true) :
    14 ≤ c.txbufLen6 ∧ c.txbufLen6 ≤ 16 ∧ 9 ≤ c.txbufLen4 ∧ c.txbufLen4 ≤ 16 ∧
      ∀ r n, (unit6 c.unit6 r n).length ≤ 3 := by
  simp only [Config.valid, suffixOk, Bool.and_eq_true, decide_eq_true_eq] at h
  refine ⟨by omega, by omega, by omega, by omega, fun r n => ?_⟩
  cases r <;> cases n <;> simp [unit6] <;> omega

/-- `IDLE` lies outside 0..6 (D6). -/
theorem valid_idle {c : Config} (h : c.valid = true) : 7 ≤ c.idle.toNat := by
  simp only [Config.valid, Bool.and_eq_true, decide_eq_true_eq] at h
  omega

/-- A reading fits in `W_READING` bits (D5). -/
theorem valid_wReading {c : Config} (h : c.valid = true) : 24 ≤ c.wReading6 ∧ 16 ≤ c.wReading4 := by
  simp only [Config.valid, Bool.and_eq_true, decide_eq_true_eq] at h
  omega

theorem txbufLen_le {s : State} (h : s.cfg.valid = true) : s.txbufLen ≤ 16 := by
  have := valid_bounds h
  unfold State.txbufLen
  split <;> omega

theorem withPoint_length {p : Nat} {gs : List Byte} (hp : p ≤ 6) (h : gs.length = 6) :
    (withPoint p gs).length = if p = 0 then 6 else 7 := by
  unfold withPoint
  split <;> simp [h]
  omega

theorem text6_length {c : Config} (h : c.valid = true) (n : Nat) (r : BitVec 24) {p : BitVec 3} (hp : p.toNat ≤ 6)
    (aux : Sin6) : (text6 c n r p aux).length ≤ 14 := by
  have hu := (valid_bounds h).2.2.2.2 (aux.asserted c .rng) (aux.asserted c .nml)
  have hw : (withPoint p.toNat (digits6 n r)).length ≤ 7 := by
    rw [withPoint_length hp rfl]
    split <;> omega
  unfold text6
  split <;> simp [lineEnd] <;> omega

@[simp] theorem text4_length (c : Config) (n : Nat) (r : BitVec 16) : (text4 c n r).length = 9 := rfl

/-! ### Where the formatters complete -/

/-- `FMT6` of a legal decimal index: the buffer holds exactly the line, and the free glyphs are drawn. -/
theorem execFmt6_spec {s : State} {d : Dec6} (hd : s.dec = .v6 d) (hv : s.cfg.valid = true) (r : BitVec 24)
    {p : BitVec 3} (hp : p.toNat ≤ 6) (aux : Sin6) :
    ∃ m : Memory, execFmt6 r p aux s = .next { s.drawn 6 with txbuf := m } ∧
      (∀ j, m.read j = (text6 s.cfg s.env.draws r p aux)[j]?) ∧ m.wf = true ∧ ∀ x ∈ m, x.1 < s.txbufLen := by
  have hl : (text6 s.cfg s.env.draws r p aux).length ≤ (s.drawn 6).txbufLen := by
    have h1 := text6_length hv s.env.draws r hp aux
    have h2 := (valid_bounds hv).1
    have h3 : (s.drawn 6).txbufLen = s.cfg.txbufLen6 := by simp [State.txbufLen, hd]
    omega
  obtain ⟨m, h1, h2, h3, h4⟩ := State.fillTxbuf_spec (s.drawn 6) _ hl
  exact ⟨m, by simp only [execFmt6, hd, hp, if_true, h1], h2, h3, by simpa using h4⟩

/-- `FMT4`: the buffer holds exactly the line, and the free glyphs are drawn. -/
theorem execFmt4_spec {s : State} {d : Dec4} (hd : s.dec = .v4 d) (hv : s.cfg.valid = true) (r : BitVec 16) :
    ∃ m : Memory, execFmt4 r s = .next { s.drawn 3 with txbuf := m } ∧
      (∀ j, m.read j = (text4 s.cfg s.env.draws r)[j]?) ∧ m.wf = true ∧ ∀ x ∈ m, x.1 < s.txbufLen := by
  have hl : (text4 s.cfg s.env.draws r).length ≤ (s.drawn 3).txbufLen := by
    have h2 := (valid_bounds hv).2.2.1
    have h3 : (s.drawn 3).txbufLen = s.cfg.txbufLen4 := by simp [State.txbufLen, hd]
    simp only [text4_length]
    omega
  obtain ⟨m, h1, h2, h3, h4⟩ := State.fillTxbuf_spec (s.drawn 3) _ hl
  exact ⟨m, by simp only [execFmt4, hd, h1], h2, h3, by simpa using h4⟩

/-! ### The frame (R90) -/

/-- The load value as R162 writes it. -/
theorem frameLoad_eq (c : Byte) : frameLoad c = (0x100 : BitVec 9) ||| ((c.setWidth 7).setWidth 9 <<< 1) := by
  revert c
  decide +kernel

/-- The shift of `TX.TICK`: every bit moves down, a mark enters at the top. -/
theorem tickShift_bit (x : BitVec 9) {i : Nat} (hi : i < 9) :
    (1#1 ++ x.extractLsb' 1 8 : BitVec 9).getLsbD i = if i = 8 then true else x.getLsbD (i + 1) := by
  have : ∀ (x : BitVec 9) (i : Fin 9),
      (1#1 ++ x.extractLsb' 1 8 : BitVec 9).getLsbD i.val = if i.val = 8 then true else x.getLsbD (i.val + 1) := by
    decide +kernel
  exact this x ⟨i, hi⟩

end Sys2Proof.Machine
end

