-- ==== Sys2Proof/Laws/PerInstr.lean ====
section
/-! SUPPORT. Statements about every operation as syntax, one lemma per constructor. -/

namespace Sys2Proof.Laws

/-! ### Masks of one and of two bits -/

theorem and_oneBit {w m p : Word} {a : Nat} {b : Bool} (hm : m = 2 ^ a)
    (hp : ∀ x : Bool, x.toNat * 2 ^ a = p ↔ x = b) : w &&& m = p ↔ w.testBit a = b := by
  rw [← hp, hm, Nat.and_two_pow]

theorem and_twoBits {w m p : Word} {a b : Nat} {va vb : Bool} (hm : m = 2 ^ a ||| 2 ^ b)
    (hp : ∀ x y : Bool, x.toNat * 2 ^ a ||| y.toNat * 2 ^ b = p ↔ x = va ∧ y = vb) :
    w &&& m = p ↔ w.testBit a = va ∧ w.testBit b = vb := by
  rw [← hp, hm, Nat.and_or_distrib_left, Nat.and_two_pow, Nat.and_two_pow]

/-! ### What a well-formed class word shows (R100) -/

theorem fits6_admits {c : Config} {sin : Sin6} {k : Class6} (h : sin.fits c k = true) :
    sin.clean c = sin ∧ k.admits c sin = true := by
  simpa [Sin6.fits, Sin6.reservedClear] using h

theorem fits4_admits {c : Config} {sin : Sin4} {k : Class4} (h : sin.fits c k = true) :
    sin.clean c = sin ∧ k.admits c sin = true := by
  simpa [Sin4.fits, Sin4.reservedClear] using h

theorem capture6_bits {c : Config} {sin : Sin6} {n : Fin 6} (h : sin.fits c (.capture n) = true) :
    sin.asserted c .mup = false ∧ sin.asserted c (strobe6 n) = true := by
  simpa [Class6.admits] using (fits6_admits h).2

theorem hold6_bits {c : Config} {sin : Sin6} {n : Fin 6} (h : sin.fits c (.hold n) = true) :
    sin.asserted c .mup = false ∧ sin.asserted c (strobe6 n) = false := by
  simpa [Class6.admits] using (fits6_admits h).2

theorem sync6_bit {c : Config} {sin : Sin6} (h : sin.fits c .sync = true) :
    sin.asserted c .mup = false := by
  simpa [Class6.admits] using (fits6_admits h).2

theorem capture4_bits {c : Config} {sin : Sin4} {k : Fin 4} (h : sin.fits c (.capture k) = true) :
    sin.asserted c .mup = false ∧ sin.asserted c (strobe4 k) = true := by
  simpa [Class4.admits] using (fits4_admits h).2

theorem hold4_bits {c : Config} {sin : Sin4} {k : Fin 4} (h : sin.fits c (.hold k) = true) :
    sin.asserted c .mup = false ∧ sin.asserted c (strobe4 k) = false := by
  simpa [Class4.admits] using (fits4_admits h).2

theorem sync4_bit {c : Config} {sin : Sin4} (h : sin.fits c .sync = true) :
    sin.asserted c .mup = false := by
  simpa [Class4.admits] using (fits4_admits h).2

/-! ### The rows of the table -/

/-- An operation that has a word has a row of spec/opcode_table.json, and a well-formed word of it meets the row's
mask and match (R100, default layouts). -/
def TableRow.Statement (i : Instr) : Prop :=
  ∀ w, encode i = some w → ∃ r, tableRow Config.default.idle i = some r ∧
    (i.wellFormed Config.default = true → w &&& r.mask = r.pattern)

theorem TableRow.dec6IdleHold (sin : Sin6) : TableRow.Statement (.dec6IdleHold sin) := by
  intro w h
  cases h
  exact ⟨_, rfl, fun hw => (and_oneBit (a := 11) (by decide) (by decide)).2 ((fits6_admits hw).2)⟩

theorem TableRow.dec6Sync (sin : Sin6) : TableRow.Statement (.dec6Sync sin) := by
  intro w h
  cases h
  exact ⟨_, rfl, fun hw => (and_oneBit (a := 11) (by decide) (by decide)).2 (sync6_bit hw)⟩

theorem TableRow.dec6Frozen (sin : Sin6) : TableRow.Statement (.dec6Frozen sin) := by
  intro w h
  cases h
  exact ⟨_, rfl, fun _ => Nat.and_zero _⟩

theorem TableRow.dec6Abort (sin : Sin6) : TableRow.Statement (.dec6Abort sin) := by
  intro w h
  cases h
  exact ⟨_, rfl, fun hw => (and_oneBit (a := 11) (by decide) (by decide)).2 ((fits6_admits hw).2)⟩

theorem TableRow.dec6Capture1 (sin : Sin6) : TableRow.Statement (.dec6Capture1 sin) := by
  intro w h
  cases h
  exact ⟨_, rfl, fun hw => (and_twoBits (a := 11) (b := 4) (by decide) (by decide)).2 (capture6_bits hw)⟩

theorem TableRow.dec6Capture2 (sin : Sin6) : TableRow.Statement (.dec6Capture2 sin) := by
  intro w h
  cases h
  exact ⟨_, rfl, fun hw => (and_twoBits (a := 11) (b := 5) (by decide) (by decide)).2 (capture6_bits hw)⟩

theorem TableRow.dec6Capture3 (sin : Sin6) : TableRow.Statement (.dec6Capture3 sin) := by
  intro w h
  cases h
  exact ⟨_, rfl, fun hw => (and_twoBits (a := 11) (b := 6) (by decide) (by decide)).2 (capture6_bits hw)⟩

theorem TableRow.dec6Capture4 (sin : Sin6) : TableRow.Statement (.dec6Capture4 sin) := by
  intro w h
  cases h
  exact ⟨_, rfl, fun hw => (and_twoBits (a := 11) (b := 7) (by decide) (by decide)).2 (capture6_bits hw)⟩

theorem TableRow.dec6Capture5 (sin : Sin6) : TableRow.Statement (.dec6Capture5 sin) := by
  intro w h
  cases h
  exact ⟨_, rfl, fun hw => (and_twoBits (a := 11) (b := 8) (by decide) (by decide)).2 (capture6_bits hw)⟩

theorem TableRow.dec6Capture6 (sin : Sin6) : TableRow.Statement (.dec6Capture6 sin) := by
  intro w h
  cases h
  exact ⟨_, rfl, fun hw => (and_twoBits (a := 11) (b := 9) (by decide) (by decide)).2 (capture6_bits hw)⟩

theorem TableRow.dec6Hold1 (sin : Sin6) : TableRow.Statement (.dec6Hold1 sin) := by
  intro w h
  cases h
  exact ⟨_, rfl, fun hw => (and_twoBits (a := 11) (b := 4) (by decide) (by decide)).2 (hold6_bits hw)⟩

theorem TableRow.dec6Hold2 (sin : Sin6) : TableRow.Statement (.dec6Hold2 sin) := by
  intro w h
  cases h
  exact ⟨_, rfl, fun hw => (and_twoBits (a := 11) (b := 5) (by decide) (by decide)).2 (hold6_bits hw)⟩

theorem TableRow.dec6Hold3 (sin : Sin6) : TableRow.Statement (.dec6Hold3 sin) := by
  intro w h
  cases h
  exact ⟨_, rfl, fun hw => (and_twoBits (a := 11) (b := 6) (by decide) (by decide)).2 (hold6_bits hw)⟩

theorem TableRow.dec6Hold4 (sin : Sin6) : TableRow.Statement (.dec6Hold4 sin) := by
  intro w h
  cases h
  exact ⟨_, rfl, fun hw => (and_twoBits (a := 11) (b := 7) (by decide) (by decide)).2 (hold6_bits hw)⟩

theorem TableRow.dec6Hold5 (sin : Sin6) : TableRow.Statement (.dec6Hold5 sin) := by
  intro w h
  cases h
  exact ⟨_, rfl, fun hw => (and_twoBits (a := 11) (b := 8) (by decide) (by decide)).2 (hold6_bits hw)⟩

theorem TableRow.dec6Hold6 (sin : Sin6) : TableRow.Statement (.dec6Hold6 sin) := by
  intro w h
  cases h
  exact ⟨_, rfl, fun hw => (and_twoBits (a := 11) (b := 9) (by decide) (by decide)).2 (hold6_bits hw)⟩

theorem TableRow.dec4IdleHold (sin : Sin4) : TableRow.Statement (.dec4IdleHold sin) := by
  intro w h
  cases h
  exact ⟨_, rfl, fun hw => (and_oneBit (a := 8) (by decide) (by decide)).2 ((fits4_admits hw).2)⟩

theorem TableRow.dec4Sync (sin : Sin4) : TableRow.Statement (.dec4Sync sin) := by
  intro w h
  cases h
  exact ⟨_, rfl, fun hw => (and_oneBit (a := 8) (by decide) (by decide)).2 (sync4_bit hw)⟩

theorem TableRow.dec4Frozen (sin : Sin4) : TableRow.Statement (.dec4Frozen sin) := by
  intro w h
  cases h
  exact ⟨_, rfl, fun _ => Nat.and_zero _⟩

theorem TableRow.dec4Abort (sin : Sin4) : TableRow.Statement (.dec4Abort sin) := by
  intro w h
  cases h
  exact ⟨_, rfl, fun hw => (and_oneBit (a := 8) (by decide) (by decide)).2 ((fits4_admits hw).2)⟩

theorem TableRow.dec4Capture1 (sin : Sin4) : TableRow.Statement (.dec4Capture1 sin) := by
  intro w h
  cases h
  exact ⟨_, rfl, fun hw => (and_twoBits (a := 8) (b := 4) (by decide) (by decide)).2 (capture4_bits hw)⟩

theorem TableRow.dec4Capture2 (sin : Sin4) : TableRow.Statement (.dec4Capture2 sin) := by
  intro w h
  cases h
  exact ⟨_, rfl, fun hw => (and_twoBits (a := 8) (b := 6) (by decide) (by decide)).2 (capture4_bits hw)⟩

theorem TableRow.dec4Capture3 (sin : Sin4) : TableRow.Statement (.dec4Capture3 sin) := by
  intro w h
  cases h
  exact ⟨_, rfl, fun hw => (and_twoBits (a := 8) (b := 5) (by decide) (by decide)).2 (capture4_bits hw)⟩

theorem TableRow.dec4Capture4 (sin : Sin4) : TableRow.Statement (.dec4Capture4 sin) := by
  intro w h
  cases h
  exact ⟨_, rfl, fun hw => (and_twoBits (a := 8) (b := 7) (by decide) (by decide)).2 (capture4_bits hw)⟩

theorem TableRow.dec4Hold1 (sin : Sin4) : TableRow.Statement (.dec4Hold1 sin) := by
  intro w h
  cases h
  exact ⟨_, rfl, fun hw => (and_twoBits (a := 8) (b := 4) (by decide) (by decide)).2 (hold4_bits hw)⟩

theorem TableRow.dec4Hold2 (sin : Sin4) : TableRow.Statement (.dec4Hold2 sin) := by
  intro w h
  cases h
  exact ⟨_, rfl, fun hw => (and_twoBits (a := 8) (b := 6) (by decide) (by decide)).2 (hold4_bits hw)⟩

theorem TableRow.dec4Hold3 (sin : Sin4) : TableRow.Statement (.dec4Hold3 sin) := by
  intro w h
  cases h
  exact ⟨_, rfl, fun hw => (and_twoBits (a := 8) (b := 5) (by decide) (by decide)).2 (hold4_bits hw)⟩

theorem TableRow.dec4Hold4 (sin : Sin4) : TableRow.Statement (.dec4Hold4 sin) := by
  intro w h
  cases h
  exact ⟨_, rfl, fun hw => (and_twoBits (a := 8) (b := 7) (by decide) (by decide)).2 (hold4_bits hw)⟩

theorem TableRow.dec6Step (sin : Sin6) : TableRow.Statement (.dec6Step sin) := by
  intro w h
  cases h

theorem TableRow.dec4Step (sin : Sin4) : TableRow.Statement (.dec4Step sin) := by
  intro w h
  cases h

theorem TableRow.dec6Reset : TableRow.Statement .dec6Reset := by
  intro w h
  cases h

theorem TableRow.dec4Reset : TableRow.Statement .dec4Reset := by
  intro w h
  cases h

theorem TableRow.fmt6 (reading : BitVec 24) (dp : BitVec 3) (aux : Sin6) : TableRow.Statement (.fmt6 reading dp aux) := by
  intro w h
  cases h

theorem TableRow.fmt4 (reading : BitVec 16) : TableRow.Statement (.fmt4 reading) := by
  intro w h
  cases h

theorem TableRow.txSend : TableRow.Statement .txSend := by
  intro w h
  cases h

theorem TableRow.txLoad : TableRow.Statement .txLoad := by
  intro w h
  cases h

theorem TableRow.txTick : TableRow.Statement .txTick := by
  intro w h
  cases h

theorem TableRow.txDone : TableRow.Statement .txDone := by
  intro w h
  cases h

theorem TableRow.seqInit : TableRow.Statement .seqInit := by
  intro w h
  cases h

theorem TableRow.seqArm : TableRow.Statement .seqArm := by
  intro w h
  cases h

theorem TableRow.seqSleep : TableRow.Statement .seqSleep := by
  intro w h
  cases h

theorem TableRow.seqWake : TableRow.Statement .seqWake := by
  intro w h
  cases h

theorem TableRow.seqSample : TableRow.Statement .seqSample := by
  intro w h
  cases h

theorem TableRow.seqStep : TableRow.Statement .seqStep := by
  intro w h
  cases h

theorem TableRow.seqAux : TableRow.Statement .seqAux := by
  intro w h
  cases h

theorem TableRow.seqFormat : TableRow.Statement .seqFormat := by
  intro w h
  cases h

theorem TableRow.seqTransmit : TableRow.Statement .seqTransmit := by
  intro w h
  cases h

theorem TableRow.seqRearm : TableRow.Statement .seqRearm := by
  intro w h
  cases h

theorem TableRow.irqEdge (l : Line) : TableRow.Statement (.irqEdge l) := by
  intro w h
  cases h

theorem TableRow.irqHandle : TableRow.Statement .irqHandle := by
  intro w h
  cases h

theorem TableRow.wdtReset : TableRow.Statement .wdtReset := by
  intro w h
  cases h

end Sys2Proof.Laws
end

