-- ==== Sys2Proof/Laws/Reach.lean ====
section
/-! SUPPORT. The reachable decoder states (40 R132, 41 R151): the writes of every class keep them, a reset gives one,
and in each of them the dispatch and the armed set are defined. -/

namespace Sys2Proof.Machine

theorem Decoder.cleared_reachable (c : Config) (d : Decoder) : (d.cleared c).Reachable c := by
  cases d with
  | v6 d => exact .inl ⟨rfl, rfl, rfl⟩
  | v4 d => exact ⟨rfl, .inl ⟨rfl, rfl⟩⟩

theorem Decoder.reset_reachable (c : Config) (v : Variant) : (Decoder.reset c v).Reachable c := by
  cases v with
  | v6 => exact .inl ⟨rfl, rfl, rfl⟩
  | v4 => exact ⟨rfl, .inl ⟨rfl, rfl⟩⟩

@[simp] theorem Decoder.cleared_nextDigit (c : Config) (d : Decoder) : (d.cleared c).nextDigit = c.idle := by
  cases d <;> rfl

/-- A reset decoder is not complete. -/
theorem Decoder.cleared_complete {c : Config} (hi : 7 ≤ c.idle.toNat) (d : Decoder) : (d.cleared c).complete = false := by
  cases d <;> simp only [Decoder.cleared, Decoder.complete, beq_eq_false_iff_ne, ne_eq] <;>
    (intro h; rw [h] at hi; revert hi; decide)

/-- A capture of digit n + 1 keeps the V6 invariant: one more nibble, and a decimal index among the digits seen. -/
theorem Dec6.capture_reachable {c : Config} (hi : 7 ≤ c.idle.toNat) {sin : Sin6} {n : Fin 6} {d : Dec6}
    (h : d.Reachable c)
    (hn : d.nextDigit.toNat = n.val) : (Dec6.capture c n sin d).Reachable c := by
  have hn6 := n.isLt
  rcases h with ⟨h1, -⟩ | ⟨h1, h2, h3⟩
  · rw [h1] at hn
    omega
  · have hnd : (BitVec.ofNat 4 (n.val + 1)).toNat = n.val + 1 := by
      simp
      omega
    have hb : 16 ^ (n.val + 1) = 2 ^ (4 * (n.val + 1)) := by rw [Nat.pow_mul]
    refine .inr ⟨by show (BitVec.ofNat 4 (n.val + 1)).toNat ≤ 6; omega, ?_, ?_⟩
    · refine Nat.lt_of_le_of_lt (inWidth_toNat_le _ _) ?_
      show ((d.reading <<< 4) ||| (digit6 c sin).setWidth 24).toNat < 16 ^ (BitVec.ofNat 4 (n.val + 1)).toNat
      rw [hnd, BitVec.toNat_or, hb]
      apply Nat.or_lt_two_pow
      · have : d.reading.toNat * 2 ^ 4 < 2 ^ (4 * (n.val + 1)) := by
          rw [← hb, Nat.pow_succ]
          rw [hn] at h2
          omega
        rw [BitVec.toNat_shiftLeft, Nat.shiftLeft_eq]
        exact Nat.lt_of_le_of_lt (Nat.mod_le _ _) this
      · have h16 : 16 ≤ 2 ^ (4 * (n.val + 1)) := by
          rw [← hb]
          exact Nat.le_self_pow (by omega) 16
        have := (digit6 c sin).isLt
        simp
        omega
    · have hdi : (decimalIndex n).toNat = 6 - n.val := by
        simp [decimalIndex]
        omega
      simp only [Dec6.capture, hnd]
      split
      · right
        rw [hdi]
        omega
      · rcases h3 with h3 | ⟨h3, h4⟩
        · exact .inl h3
        · right
          omega

/-- A capture keeps the V4 invariant: the nibbles still to come stay 0. -/
theorem Dec4.capture_reachable {c : Config} (hi : 7 ≤ c.idle.toNat) {sin : Sin4} {n : Fin 4} {d : Dec4}
    (h : d.Reachable c) (hn : d.nextDigit.toNat = n.val) : (Dec4.capture c n sin d).Reachable c := by
  have hn4 := n.isLt
  obtain ⟨h0, ⟨h1, -⟩ | ⟨h1, h2⟩⟩ := h
  · rw [h1] at hn
    omega
  · have hnd : (BitVec.ofNat 4 (n.val + 1)).toNat = n.val + 1 := by
      simp
      omega
    refine ⟨h0, .inr ⟨by show (BitVec.ofNat 4 (n.val + 1)).toNat ≤ 4; omega, fun k hk => ?_⟩⟩
    simp only [Dec4.capture, hnd] at hk ⊢
    apply nibble_inWidth_zero
    have := nibble_setNibble d.reading (digit4 c sin) ⟨_, fill4_lt c.numbering4 n⟩ ⟨_, fill4_lt c.numbering4 k⟩
    simp only at this
    rw [this, if_neg]
    · exact h2 k (by omega)
    · intro he
      simp only [Fin.mk.injEq] at he
      have := fill4_injective he
      subst this
      omega

theorem effect6_reachable {cfg : Config} (hi : 7 ≤ cfg.idle.toNat) {sin : Sin6} {c : Class6} {d : Dec6}
    (h : d.Reachable cfg) (hc : classify6 cfg d.nextDigit sin = some c) : (effect6 cfg sin c d).Reachable cfg := by
  have hs := classify6_some hc
  cases c with
  | idleHold => exact h
  | frozen => exact h
  | hold n => exact h
  | sync => exact .inr ⟨by simp [effect6], by simp [effect6], .inl rfl⟩
  | abort => exact .inl ⟨rfl, rfl, rfl⟩
  | capture n => exact Dec6.capture_reachable hi h hs.1

theorem effect4_reachable {cfg : Config} (hi : 7 ≤ cfg.idle.toNat) {sin : Sin4} {c : Class4} {d : Dec4}
    (h : d.Reachable cfg) (hc : classify4 cfg d.nextDigit sin = some c) : (effect4 cfg sin c d).Reachable cfg := by
  have hs := classify4_some hc
  cases c with
  | idleHold => exact h
  | frozen => exact h
  | hold n => exact h
  | sync => exact ⟨rfl, .inr ⟨by simp [effect4], fun k _ => by simp [effect4, nibble]⟩⟩
  | abort => exact ⟨rfl, .inl ⟨rfl, rfl⟩⟩
  | capture n => exact Dec4.capture_reachable hi h hs.1

theorem Dec6.reachable_phase {c : Config} {d : Dec6} (h : d.Reachable c) : d.nextDigit.toNat ≤ 6 ∨ d.nextDigit = c.idle := by
  rcases h with ⟨h, -⟩ | ⟨h, -⟩
  · exact .inr h
  · exact .inl h

theorem Dec4.reachable_phase {c : Config} {d : Dec4} (h : d.Reachable c) :
    d.nextDigit.toNat ≤ 4 ∨ d.nextDigit = c.idle := by
  obtain ⟨-, ⟨h, -⟩ | ⟨h, -⟩⟩ := h
  · exact .inr h
  · exact .inl h

/-- `FMT6`'s operand is legal in every reachable state. -/
theorem Dec6.reachable_dp {c : Config} {d : Dec6} (h : d.Reachable c) : d.dp.toNat ≤ 6 := by
  rcases h with ⟨-, -, h⟩ | ⟨-, -, h | h⟩
  · simp [h]
  · simp [h]
  · exact h.2

/-- `SEQ.ARM` has its relevant lines in every reachable state. -/
theorem relevant_some {c : Config} {d : Decoder} (h : d.Reachable c) : ∃ r, relevant c d = some r := by
  cases d with
  | v6 d =>
    have hp := Dec6.reachable_phase h
    simp only [relevant]
    split
    · exact ⟨_, rfl⟩
    split
    · exact ⟨_, rfl⟩
    split
    · exact ⟨_, rfl⟩
    rename_i h1 h2 h3
    rcases hp with h | h
    · exact absurd (BitVec.eq_of_toNat_eq (by simp; omega)) h3
    · exact absurd h h1
  | v4 d =>
    have hp := Dec4.reachable_phase h
    simp only [relevant]
    split
    · exact ⟨_, rfl⟩
    split
    · exact ⟨_, rfl⟩
    split
    · exact ⟨_, rfl⟩
    rename_i h1 h2 h3
    rcases hp with h | h
    · exact absurd (BitVec.eq_of_toNat_eq (by simp; omega)) h3
    · exact absurd h h1

end Sys2Proof.Machine
end

