-- ==== Sys2Proof/Tests/Slice0.lean ====
section
/-! SUPPORT. Tests. Expected results come from spec/ (95_test_vectors.md, the tables of 30_encoding.md, the examples of the
rules), named beside each test. The last section gives, for every statement with hypotheses, concrete values that meet
them. -/

namespace Sys2Proof.Tests

open Sys2Proof.Machine

/-! ### Helpers -/

/-- A V6 device in reset but for its decoder. -/
def at6 (d : Dec6) : State := { State.reset with dec := .v6 d }

/-- A V4 device in reset but for its decoder and numbering. -/
def at4 (num : Numbering4) (d : Dec4) : State :=
  { State.resetOf .v4 { Config.default with numbering4 := num } with dec := .v4 d }

/-- A field of the next state. -/
def after {α : Type} (o : Out) (f : State → α) : Option α :=
  match o with
  | .next t => some (f t)
  | .fault _ => none
  | .refused _ => none

/-- The refusal of a refused operation. -/
def refusal : Out → Option Refusal
  | .next _ => none
  | .fault _ => none
  | .refused r => some r

/-- The fault of a faulting operation. -/
def faultOf : Out → Option Fault
  | .next _ => none
  | .fault r => some r
  | .refused _ => none

/-- A text as the buffer's cells. -/
def cells (cs : List Byte) : Memory := (List.range cs.length).zip cs

/-- What `step` does on a table word placed after reset. -/
def stepWord (w : Nat) : Option Decoder := after (step (State.reset.withFetchWord 16 w)) (·.dec)

/-! ### Well-formedness (R100, R104, R181, R8): an ill-formed term for each check is refused -/

theorem test_wf_class6_mup : (Instr.dec6IdleHold ⟨0x0000⟩).wellFormed Config.default = false ∧
    (Instr.dec6Sync ⟨0x0800⟩).wellFormed Config.default = false ∧
    (Instr.dec6Abort ⟨0x0043⟩).wellFormed Config.default = false ∧
    (Instr.dec6Capture3 ⟨0x0843⟩).wellFormed Config.default = false ∧
    (Instr.dec6Hold3 ⟨0x0800⟩).wellFormed Config.default = false := by decide

theorem test_wf_class6_strobe : (Instr.dec6Capture3 ⟨0x0023⟩).wellFormed Config.default = false ∧
    (Instr.dec6Hold3 ⟨0x0043⟩).wellFormed Config.default = false ∧
    (Instr.dec6Capture3 ⟨0x0043⟩).wellFormed Config.default = true := by decide

theorem test_wf_class4 : (Instr.dec4IdleHold ⟨0x0000⟩).wellFormed Config.default = false ∧
    (Instr.dec4Sync ⟨0x0100⟩).wellFormed Config.default = false ∧
    (Instr.dec4Abort ⟨0x0021⟩).wellFormed Config.default = false ∧
    (Instr.dec4Capture2 ⟨0x0021⟩).wellFormed Config.default = false ∧
    (Instr.dec4Hold2 ⟨0x0040⟩).wellFormed Config.default = false ∧
    (Instr.dec4Capture2 ⟨0x0040⟩).wellFormed Config.default = true := by decide

theorem test_wf_reserved_bits : (Instr.dec6Frozen ⟨0x8000⟩).wellFormed Config.default = false ∧
    (Instr.dec4Frozen ⟨0x0200⟩).wellFormed Config.default = false ∧
    (Instr.dec6Step ⟨0x8043⟩).wellFormed Config.default = false ∧
    (Instr.dec4Step ⟨0xFE86⟩).wellFormed Config.default = false ∧
    (Instr.fmt6 0 0 ⟨0x8000⟩).wellFormed Config.default = false ∧
    (Instr.dec6Step ⟨0x7FFF⟩).wellFormed Config.default = true := by decide

theorem test_wf_fmt6_dp : (Instr.fmt6 0 7 ⟨0⟩).wellFormed Config.default = false ∧
    (Instr.fmt6 0 6 ⟨0⟩).wellFormed Config.default = true := by decide

theorem test_valid_config : Config.default.valid = true ∧
    ({ Config.default with layout6 := { Layout6.default with dp := 0 } } : Config).valid = false ∧
    ({ Config.default with layout4 := { Layout4.default with mup := 4 } } : Config).valid = false ∧
    ({ Config.default with txbufLen6 := 13 } : Config).valid = false ∧
    ({ Config.default with txbufLen4 := 17 } : Config).valid = false ∧
    ({ Config.default with ovfGlyph := 0x20 } : Config).valid = false ∧
    ({ Config.default with ovfGlyph := 0 } : Config).valid = false ∧
    ({ Config.default with unit6 := ⟨[1, 1, 1, 1], [], []⟩ } : Config).valid = false ∧
    ({ Config.default with unit6 := ⟨[], [], [0]⟩ } : Config).valid = false ∧
    ({ Config.default with polBit := 3 } : Config).valid = false ∧
    ({ Config.default with oneBit := 3 } : Config).valid = false ∧
    ({ Config.default with idle := 6 } : Config).valid = false ∧
    ({ Config.default with wSin := 14 } : Config).valid = false ∧
    ({ Config.default with wReading6 := 23 } : Config).valid = false ∧
    ({ Config.default with wReading4 := 15 } : Config).valid = false ∧
    ({ Config.default with idle := 9, gIdle := 2, wSin := 15, wReading6 := 32 } : Config).valid = true := by decide

/-- `W_SIN` sets the word's width (R8, R13): a V6 device of 24-bit words with `MUP` at bit 20. -/
def wide : Config := { Config.default with wSin := 24, layout6 := { Layout6.default with mup := 20 } }

/-- The line at bit 20 is read from a 24-bit word and from no 16-bit one; a bit above the width is reserved (R104). -/
theorem test_W_SIN_sets_the_width : wide.valid = true ∧ ({ wide with wSin := 16 } : Config).valid = false ∧
    decode6 wide 15 0x100010 = .ok (.dec6IdleHold ⟨0x100010⟩) ∧ decode6 wide 15 0x1000010 = .ok (.dec6Sync ⟨0x10⟩) ∧
    decode6 { wide with wSin := 16 } 15 0x100010 = .ok (.dec6Sync ⟨0x10⟩) ∧
    (Instr.dec6IdleHold ⟨0x100010⟩).wellFormed wide = true ∧ (Instr.dec6Step ⟨0x1000010⟩).wellFormed wide = false := by decide

/-- The shift of a capture drops what leaves the 24 bits (R21), and a register of 8 bits keeps two digits (R8). -/
theorem test_W_READING_sets_the_width :
    (Dec6.capture Config.default 5 ⟨0x0206⟩ ⟨0x123456, 0, 5⟩).reading = 0x234566 ∧
    (Dec6.capture { Config.default with wReading6 := 32 } 5 ⟨0x0206⟩ ⟨0x123456, 0, 5⟩).reading = 0x234566 ∧
    (Dec6.capture { Config.default with wReading6 := 8 } 2 ⟨0x0043⟩ ⟨0x12, 0, 2⟩).reading = 0x23 ∧
    (Dec4.capture { Config.default with wReading4 := 8 } 3 ⟨0x0086⟩ ⟨0x0012, 0, 3⟩).reading = 0x12 := by decide

/-! ### Decoding (R100, and the match and mask of spec/opcode_table.json): words written out from R81 and R83 -/

theorem test_decode6_idle : decode6 Config.default 15 0b0000100000010111 = .ok (.dec6IdleHold ⟨0x0817⟩) ∧
    decode6 Config.default 15 0b0000000000010101 = .ok (.dec6Sync ⟨0x0015⟩) := by decide

theorem test_decode6_frozen_abort : decode6 Config.default 6 0b0111111111111111 = .ok (.dec6Frozen ⟨0x7FFF⟩) ∧
    decode6 Config.default 5 0b0000101000000110 = .ok (.dec6Abort ⟨0x0A06⟩) ∧
    decode6 Config.default 0 0b0000100000000000 = .ok (.dec6Abort ⟨0x0800⟩) := by decide

theorem test_decode6_capture : decode6 Config.default 0 0b0000000000010001 = .ok (.dec6Capture1 ⟨0x0011⟩) ∧
    decode6 Config.default 1 0b0000000000100010 = .ok (.dec6Capture2 ⟨0x0022⟩) ∧
    decode6 Config.default 2 0b0000000001000011 = .ok (.dec6Capture3 ⟨0x0043⟩) ∧
    decode6 Config.default 3 0b0000010010000100 = .ok (.dec6Capture4 ⟨0x0484⟩) ∧
    decode6 Config.default 4 0b0000000100000101 = .ok (.dec6Capture5 ⟨0x0105⟩) ∧
    decode6 Config.default 5 0b0000001000000110 = .ok (.dec6Capture6 ⟨0x0206⟩) := by decide

theorem test_decode6_hold : decode6 Config.default 0 0b0000000000100010 = .ok (.dec6Hold1 ⟨0x0022⟩) ∧
    decode6 Config.default 1 0b0000000000010001 = .ok (.dec6Hold2 ⟨0x0011⟩) ∧
    decode6 Config.default 2 0b0111000000000000 = .ok (.dec6Hold3 ⟨0x7000⟩) ∧
    decode6 Config.default 3 0b0000000000000000 = .ok (.dec6Hold4 ⟨0x0000⟩) ∧
    decode6 Config.default 4 0b0000001000000101 = .ok (.dec6Hold5 ⟨0x0205⟩) ∧
    decode6 Config.default 5 0b0000000100000110 = .ok (.dec6Hold6 ⟨0x0106⟩) := by decide

theorem test_decode4_idle : decode4 Config.default 15 0b0000000110010110 = .ok (.dec4IdleHold ⟨0x0196⟩) ∧
    decode4 Config.default 15 0b0000000000011001 = .ok (.dec4Sync ⟨0x0019⟩) := by decide

theorem test_decode4_frozen_abort : decode4 Config.default 4 0b0000000100000000 = .ok (.dec4Frozen ⟨0x0100⟩) ∧
    decode4 Config.default 3 0b0000000110000110 = .ok (.dec4Abort ⟨0x0186⟩) := by decide

theorem test_decode4_capture : decode4 Config.default 0 0b0000000000011001 = .ok (.dec4Capture1 ⟨0x0019⟩) ∧
    decode4 Config.default 1 0b0000000001000111 = .ok (.dec4Capture2 ⟨0x0047⟩) ∧
    decode4 Config.default 2 0b0000000000101000 = .ok (.dec4Capture3 ⟨0x0028⟩) ∧
    decode4 Config.default 3 0b0000000010001101 = .ok (.dec4Capture4 ⟨0x008D⟩) := by decide

theorem test_decode4_hold : decode4 Config.default 0 0b0000000010000110 = .ok (.dec4Hold1 ⟨0x0086⟩) ∧
    decode4 Config.default 1 0b0000000000100001 = .ok (.dec4Hold2 ⟨0x0021⟩) ∧
    decode4 Config.default 2 0b0000000001000000 = .ok (.dec4Hold3 ⟨0x0040⟩) ∧
    decode4 Config.default 3 0b0000000000100010 = .ok (.dec4Hold4 ⟨0x0022⟩) := by decide

/-- R105: the reserved phases, at both ends. -/
theorem test_decode_reserved_phase : decode Config.default .v6 7 0 = .error .reservedPhase ∧
    decode Config.default .v6 14 0x0800 = .error .reservedPhase ∧
    decode Config.default .v4 5 0 = .error .reservedPhase ∧
    decode Config.default .v4 14 0x0100 = .error .reservedPhase := by decide

/-- R104: V6-22 and V4-14. -/
theorem test_decode_reserved_bits : decode6 Config.default 2 0x8043 = .ok (.dec6Capture3 ⟨0x0043⟩) ∧
    decode4 Config.default 3 0xFE86 = .ok (.dec4Capture4 ⟨0x0086⟩) := by decide

/-- The brace forms of R110. -/
theorem test_brace_forms : brace6 [.s4, .dp] 4 = ⟨0x0484⟩ ∧ brace6 [] 0 = ⟨0x0000⟩ ∧ brace6 [.mup] 0 = ⟨0x0800⟩ ∧
    brace4 [.dg2] 1 = ⟨0x0021⟩ ∧ brace4 [.mup] 0 = ⟨0x0100⟩ := by decide

/-- `SWEEP6` and `SWEEP4` (R111) are the words of T2 and T3. -/
theorem test_sweeps : sweep6 (fun n => BitVec.ofNat 4 (n.val + 1)) 3 =
      [⟨0x0011⟩, ⟨0x0022⟩, ⟨0x0043⟩, ⟨0x0484⟩, ⟨0x0105⟩, ⟨0x0206⟩] ∧
    sweep4 ![0, 0, 1, 6] = [⟨0x0010⟩, ⟨0x0040⟩, ⟨0x0021⟩, ⟨0x0086⟩] := by decide

/-- Table words (log 19): a word with a strobe is read in the phase that expects it, and the next step runs it. -/
theorem test_table_words : decodeTableWord 16 0x0043 = some (.dec6Capture3 ⟨0x0043⟩) ∧
    decodeTableWord 16 0x0800 = some (.dec6IdleHold ⟨0x0800⟩) ∧
    decodeTableWord 16 0x0000 = some (.dec6Sync ⟨0x0000⟩) ∧
    decodeTableWord 16 0x0206 = some (.dec6Capture6 ⟨0x0206⟩) ∧
    decodeTableWord 17 0x0206 = none := by decide

theorem test_fetch_words : stepWord 0x0043 = some (.v6 ⟨0x000003, 0, 3⟩) ∧
    stepWord 0x0800 = some (.v6 ⟨0, 0, 15⟩) ∧ stepWord 0x0000 = some (.v6 ⟨0, 0, 0⟩) ∧
    stepWord 0x0606 = some (.v6 ⟨0x000006, 1, 6⟩) := by decide

/-! ### Decoder vectors (95 sections 1 to 3), one step each -/

/-- T1, T2, V6-1 to V6-16, V6-19 to V6-22 and the trace of nibbles above 9: start, word, class, end. -/
def vectors6 : List (Dec6 × Word × Class6 × Dec6) :=
  [(⟨0, 0, 15⟩, 0x0817, .idleHold, ⟨0, 0, 15⟩),
   (⟨0, 0, 15⟩, 0x0015, .sync, ⟨0, 0, 0⟩),
   (⟨0, 0, 0⟩, 0x0015, .capture 0, ⟨0x000005, 0, 1⟩),
   (⟨0x000005, 0, 1⟩, 0x0015, .hold 1, ⟨0x000005, 0, 1⟩),
   (⟨0x000012, 0, 2⟩, 0x0822, .abort, ⟨0, 0, 15⟩),
   (⟨0x012345, 0, 5⟩, 0x0606, .capture 5, ⟨0x123456, 1, 6⟩),
   (⟨0, 0, 0⟩, 0x0411, .capture 0, ⟨0x000001, 6, 1⟩),
   (⟨0x000012, 6, 2⟩, 0x0443, .capture 2, ⟨0x000123, 4, 3⟩),
   (⟨0x012345, 0, 5⟩, 0x0A06, .abort, ⟨0, 0, 15⟩),
   (⟨0x000012, 0, 2⟩, 0x0000, .hold 2, ⟨0x000012, 0, 2⟩),
   (⟨0x000012, 0, 2⟩, 0x7000, .hold 2, ⟨0x000012, 0, 2⟩),
   (⟨0x000012, 0, 2⟩, 0x7043, .capture 2, ⟨0x000123, 0, 3⟩),
   (⟨0x000001, 0, 1⟩, 0x0100, .hold 1, ⟨0x000001, 0, 1⟩),
   (⟨0x123456, 3, 6⟩, 0x0800, .frozen, ⟨0x123456, 3, 6⟩)] ++
  [(⟨0x123456, 3, 6⟩, 0x0011, .frozen, ⟨0x123456, 3, 6⟩),
   (⟨0x123456, 3, 6⟩, 0x7FFF, .frozen, ⟨0x123456, 3, 6⟩),
   (⟨0, 0, 0⟩, 0x0037, .capture 0, ⟨0x000007, 0, 1⟩),
   (⟨0x000007, 0, 1⟩, 0x0037, .capture 1, ⟨0x000077, 0, 2⟩),
   (⟨0x000077, 0, 2⟩, 0x0037, .hold 2, ⟨0x000077, 0, 2⟩),
   (⟨0x000012, 0, 2⟩, 0x8043, .capture 2, ⟨0x000123, 0, 3⟩),
   (⟨0x000001, 0, 1⟩, 0x0022, .capture 1, ⟨0x000012, 0, 2⟩),
   (⟨0x000123, 0, 3⟩, 0x0484, .capture 3, ⟨0x001234, 3, 4⟩),
   (⟨0x001234, 3, 4⟩, 0x0105, .capture 4, ⟨0x012345, 3, 5⟩),
   (⟨0x000AF0, 0, 3⟩, 0x008B, .capture 3, ⟨0x00AF0B, 0, 4⟩),
   (⟨0x00AF0B, 0, 4⟩, 0x010C, .capture 4, ⟨0x0AF0BC, 0, 5⟩),
   (⟨0x0AF0BC, 0, 5⟩, 0x0209, .capture 5, ⟨0xAF0BC9, 0, 6⟩)]

theorem test_dec6_vectors : ∀ v ∈ vectors6, classify6 Config.default v.1.nextDigit ⟨v.2.1⟩ = some v.2.2.1 ∧
    after (exec (.dec6Step ⟨v.2.1⟩) (at6 v.1)) (·.dec) = some (.v6 v.2.2.2) := by decide

/-- V4-1 to V4-10, V4-12 to V4-14: numbering, start, word, class, end. -/
def vectors4 : List (Numbering4 × Dec4 × Word × Class4 × Dec4) :=
  [(.lsdFirst, ⟨0, 0, 15⟩, 0x0196, .idleHold, ⟨0, 0, 15⟩),
   (.lsdFirst, ⟨0, 0, 15⟩, 0x0019, .sync, ⟨0, 0, 0⟩),
   (.lsdFirst, ⟨0, 0, 0⟩, 0x0019, .capture 0, ⟨0x0009, 0, 1⟩),
   (.lsdFirst, ⟨0x0009, 0, 1⟩, 0x0021, .hold 1, ⟨0x0009, 0, 1⟩),
   (.lsdFirst, ⟨0x0010, 0, 3⟩, 0x0186, .abort, ⟨0, 0, 15⟩),
   (.lsdFirst, ⟨0x0009, 0, 1⟩, 0x0047, .capture 1, ⟨0x0709, 0, 2⟩),
   (.lsdFirst, ⟨0x0709, 0, 2⟩, 0x0028, .capture 2, ⟨0x0789, 0, 3⟩),
   (.lsdFirst, ⟨0x0789, 0, 3⟩, 0x008D, .capture 3, ⟨0xD789, 0, 4⟩),
   (.lsdFirst, ⟨0, 0, 0⟩, 0x0086, .hold 0, ⟨0, 0, 0⟩),
   (.lsdFirst, ⟨0x6010, 0, 4⟩, 0x0100, .frozen, ⟨0x6010, 0, 4⟩),
   (.msdFirst, ⟨0, 0, 0⟩, 0x0016, .capture 0, ⟨0x6000, 0, 1⟩),
   (.msdFirst, ⟨0x6000, 0, 1⟩, 0x0045, .capture 1, ⟨0x6050, 0, 2⟩),
   (.lsdFirst, ⟨0x0010, 0, 3⟩, 0xFE86, .capture 3, ⟨0x6010, 0, 4⟩)]

theorem test_dec4_vectors : ∀ v ∈ vectors4, classify4 Config.default v.2.1.nextDigit ⟨v.2.2.1⟩ = some v.2.2.2.1 ∧
    after (exec (.dec4Step ⟨v.2.2.1⟩) (at4 v.1 v.2.1)) (·.dec) = some (.v4 v.2.2.2.2) := by decide

/-- Each class row by its own operation (examples of R122 to R127). -/
theorem test_dec6_rows : after (exec (.dec6IdleHold ⟨0x0817⟩) (at6 ⟨0, 0, 15⟩)) (·.dec) = some (.v6 ⟨0, 0, 15⟩) ∧
    after (exec (.dec6Sync ⟨0⟩) (at6 ⟨0, 0, 15⟩)) (·.dec) = some (.v6 ⟨0, 0, 0⟩) ∧
    after (exec (.dec6Abort ⟨0x0843⟩) (at6 ⟨0x12, 0, 2⟩)) (·.dec) = some (.v6 ⟨0, 0, 15⟩) ∧
    after (exec (.dec6Capture4 ⟨0x0484⟩) (at6 ⟨0x123, 0, 3⟩)) (·.dec) = some (.v6 ⟨0x1234, 3, 4⟩) ∧
    after (exec (.dec6Hold2 ⟨0x0011⟩) (at6 ⟨0x1, 0, 1⟩)) (·.dec) = some (.v6 ⟨0x1, 0, 1⟩) ∧
    after (exec (.dec6Frozen ⟨0x0800⟩) (at6 ⟨0x123456, 0, 6⟩)) (·.dec) = some (.v6 ⟨0x123456, 0, 6⟩) := by decide

/-- Examples of R142 to R147. -/
theorem test_dec4_rows : after (exec (.dec4IdleHold ⟨0x0100⟩) (at4 .lsdFirst ⟨0, 0, 15⟩)) (·.dec) = some (.v4 ⟨0, 0, 15⟩) ∧
    after (exec (.dec4Sync ⟨0⟩) (at4 .lsdFirst ⟨0, 0, 15⟩)) (·.dec) = some (.v4 ⟨0, 0, 0⟩) ∧
    after (exec (.dec4Abort ⟨0x0186⟩) (at4 .lsdFirst ⟨0x10, 0, 3⟩)) (·.dec) = some (.v4 ⟨0, 0, 15⟩) ∧
    after (exec (.dec4Capture3 ⟨0x0021⟩) (at4 .lsdFirst ⟨0, 0, 2⟩)) (·.dec) = some (.v4 ⟨0x10, 0, 3⟩) ∧
    after (exec (.dec4Hold2 ⟨0x0021⟩) (at4 .lsdFirst ⟨0, 0, 1⟩)) (·.dec) = some (.v4 ⟨0, 0, 1⟩) ∧
    after (exec (.dec4Frozen ⟨0x0100⟩) (at4 .lsdFirst ⟨0x6010, 0, 4⟩)) (·.dec) = some (.v4 ⟨0x6010, 0, 4⟩) := by decide

/-- V6-17, V6-18, V4-11. -/
theorem test_decoder_reset : after (exec .dec6Reset (at6 ⟨0x123456, 3, 6⟩)) (·.dec) = some (.v6 ⟨0, 0, 15⟩) ∧
    after (exec .dec6Reset (at6 ⟨0x77, 0, 2⟩)) (·.dec) = some (.v6 ⟨0, 0, 15⟩) ∧
    after (exec .dec4Reset (at4 .lsdFirst ⟨0x6010, 0, 4⟩)) (·.dec) = some (.v4 ⟨0, 0, 15⟩) := by decide

/-- R105: from (0, 0, 9). -/
theorem test_reserved_phase : refusal (exec (.dec6Step ⟨0x0043⟩) (at6 ⟨0, 0, 9⟩)) = some .reservedPhase := by decide

/-- T3 under `MSD_FIRST`: its words end in 0x0106 (last step). -/
theorem test_dec4_msd_last : after (exec (.dec4Step ⟨0x0086⟩) (at4 .msdFirst ⟨0x0100, 0, 3⟩)) (·.dec) =
    some (.v4 ⟨0x0106, 0, 4⟩) := by decide

/-! ### Formatter vectors (95 section 4) -/

/-- F6-1 to F6-10: reading, decimal index, auxiliary word, text. -/
def vectorsF6 : List (BitVec 24 × BitVec 3 × Word × List Byte) :=
  [(0x123456, 0, 0x0000,
    [0x20, 0x31, 0x32, 0x33, 0x34, 0x35, 0x36, 0x0D, 0x0A, 0x00]),
   (0x123456, 3, 0x4000,
    [0x20, 0x31, 0x32, 0x33, 0x2E, 0x34, 0x35, 0x36, 0x6D, 0x73, 0x0D, 0x0A, 0x00]),
   (0x123456, 1, 0x6000,
    [0x20, 0x31, 0x32, 0x33, 0x34, 0x35, 0x2E, 0x36, 0x75, 0x73, 0x0D, 0x0A, 0x00]),
   (0x123456, 6, 0x0000,
    [0x20, 0x2E, 0x31, 0x32, 0x33, 0x34, 0x35, 0x36, 0x6B, 0x48, 0x7A, 0x0D, 0x0A, 0x00]),
   (0x000042, 2, 0x3000,
    [0x3E, 0x30, 0x30, 0x30, 0x30, 0x2E, 0x34, 0x32, 0x4D, 0x48, 0x7A, 0x0D, 0x0A, 0x00]),
   (0x999999, 0, 0x7000,
    [0x3E, 0x39, 0x39, 0x39, 0x39, 0x39, 0x39, 0x0D, 0x0A, 0x00]),
   (0x000000, 0, 0x1000,
    [0x3E, 0x30, 0x30, 0x30, 0x30, 0x30, 0x30, 0x0D, 0x0A, 0x00]),
   (0x123456, 4, 0x2000,
    [0x20, 0x31, 0x32, 0x2E, 0x33, 0x34, 0x35, 0x36, 0x4D, 0x48, 0x7A, 0x0D, 0x0A, 0x00]),
   (0x123456, 5, 0x4000,
    [0x20, 0x31, 0x2E, 0x32, 0x33, 0x34, 0x35, 0x36, 0x6D, 0x73, 0x0D, 0x0A, 0x00]),
   (0x123456, 2, 0x4000,
    [0x20, 0x31, 0x32, 0x33, 0x34, 0x2E, 0x35, 0x36, 0x6D, 0x73, 0x0D, 0x0A, 0x00])]

theorem test_fmt6_vectors : ∀ v ∈ vectorsF6,
    after (exec (.fmt6 v.1 v.2.1 ⟨v.2.2.1⟩) (at6 ⟨0, 0, 6⟩)) (·.txbuf) = some (cells v.2.2.2) := by decide +kernel

/-- F6-11: the nibble above 9 leaves the other characters as they are. -/
theorem test_fmt6_above_nine :
    after (exec (.fmt6 0x12A456 0 ⟨0⟩) (at6 ⟨0, 0, 6⟩)) (fun t => (t.txbuf.read 2, t.txbuf.read 4, t.txbuf.read 8)) =
      some (some 0x32, some 0x34, some 0x0A) := rfl

/-- F4-1 to F4-8. -/
def vectorsF4 : List (BitVec 16 × List Byte) :=
  [(0x6010, [0x20, 0x2B, 0x20, 0x30, 0x31, 0x30, 0x0D, 0x0A, 0x00]),
   (0xD199, [0x3E, 0x2B, 0x31, 0x31, 0x39, 0x39, 0x0D, 0x0A, 0x00]),
   (0x0000, [0x20, 0x2D, 0x20, 0x30, 0x30, 0x30, 0x0D, 0x0A, 0x00]),
   (0x4000, [0x20, 0x2B, 0x20, 0x30, 0x30, 0x30, 0x0D, 0x0A, 0x00]),
   (0x5999, [0x20, 0x2B, 0x31, 0x39, 0x39, 0x39, 0x0D, 0x0A, 0x00]),
   (0x2123, [0x20, 0x2D, 0x20, 0x31, 0x32, 0x33, 0x0D, 0x0A, 0x00]),
   (0xF000, [0x3E, 0x2B, 0x31, 0x30, 0x30, 0x30, 0x0D, 0x0A, 0x00]),
   (0x8888, [0x3E, 0x2D, 0x20, 0x38, 0x38, 0x38, 0x0D, 0x0A, 0x00])]

theorem test_fmt4_vectors : ∀ v ∈ vectorsF4,
    after (exec (.fmt4 v.1) (at4 .lsdFirst ⟨0, 0, 4⟩)) (·.txbuf) = some (cells v.2) := by decide +kernel

/-! ### Transmitter vectors (95 section 5, P4) -/

/-- A V6 device with a text in its buffer. -/
def texted (cs : List Byte) : State := { at6 ⟨0, 0, 6⟩ with txbuf := cells cs }

/-- The device of `texted` with a transmitter in mid-flight. -/
def sending (cs : List Byte) (x : Tx) : State := { texted cs with tx := x }

/-- P4, first row; X-1. -/
theorem test_tx_send : after (exec .txSend (texted [0x41, 0x0D, 0x0A, 0x00])) (·.tx) = some ⟨true, 0x182, 9, 0⟩ ∧
    after (exec .txSend (texted [0x00])) (fun t => (t.tx, t.txd, t.wire)) =
      some (⟨false, 0x1FF, 0, 0⟩, true, []) := by decide

/-- X-3, X-4. -/
theorem test_tx_send_refused : refusal (exec .txSend (sending [0x41, 0x00] ⟨true, 0x182, 9, 0⟩)) = some .txBusy ∧
    refusal (exec .txSend (texted (List.replicate 14 0x41))) = some .noTerminator := by decide

/-- The example of R162 (CR loads 0x11A) and X-2 (bit 7 dropped). -/
theorem test_tx_load : after (exec .txLoad (sending [0x41, 0x0D, 0x00] ⟨true, 0x1FF, 0, 1⟩)) (·.tx.sr) = some 0x11A ∧
    after (exec .txLoad (sending [0xC1, 0x00] ⟨true, 0x1FF, 0, 0⟩)) (·.tx) = some ⟨true, 0x182, 9, 0⟩ := by decide

/-- R162 at the terminator (`TX.DONE`), and past the written characters. -/
theorem test_tx_load_end : after (exec .txLoad (sending [0x41, 0x00] ⟨true, 0x1FF, 0, 1⟩)) (·.tx) =
      some ⟨false, 0x1FF, 0, 1⟩ ∧
    faultOf (exec .txLoad (sending [0x41, 0x00] ⟨true, 0x1FF, 0, 2⟩)) = some .unwrittenChar ∧
    refusal (exec .txLoad (sending [0x41, 0x00] ⟨true, 0x1FF, 0, 14⟩)) = some .noTerminator := by decide

/-- The example of R163 (P4 tick 1) and P4 tick 9. -/
theorem test_tx_tick : after (exec .txTick (sending [0x41, 0x00] ⟨true, 0x182, 9, 0⟩)) (fun t => (t.tx, t.txd, t.wire)) =
      some (⟨true, 0x1C1, 8, 0⟩, false, [false]) ∧
    after (exec .txTick (sending [0x41, 0x00] ⟨true, 0x1FF, 1, 0⟩)) (fun t => (t.tx, t.txd)) =
      some (⟨true, 0x1FF, 0, 1⟩, true) := by decide

/-- X-5. -/
theorem test_tx_tick_not_enabled : refusal (exec .txTick (sending [0x41, 0x00] ⟨false, 0x182, 9, 0⟩)) = some .notEnabled := by
  decide

theorem test_tx_done : after (exec .txDone { sending [0x41, 0x00] ⟨true, 0x1FF, 0, 1⟩ with txd := false })
    (fun t => (t.tx.busy, t.txd)) = some (false, true) := by decide

/-- `G_IDLE` = 2 (R8, D13): two bit times after the frame of a character that another follows, none before the terminator. -/
theorem test_gap : (let s (cs : List Byte) : State := { sending cs ⟨true, 0x1FF, 1, 0⟩ with
      cfg := { Config.default with gIdle := 2 }, env := ⟨List.replicate 4 .bitClock, [], 0⟩ }
    after (exec .txTick (s [0x41, 0x42, 0x00])) (·.gap) = some 2 ∧ after (exec .txTick (s [0x41, 0x00])) (·.gap) = some 0 ∧
    after (runSteps 3 (s [0x41, 0x42, 0x00])) (fun t => (t.gap, t.tx.cnt, t.txd, t.wire)) = some (0, 0, true, [true]) ∧
    after (runSteps 4 (s [0x41, 0x42, 0x00])) (fun t => (t.tx, t.wire)) = some (⟨true, 0x184, 9, 1⟩, [true])) := by decide

/-- `IDLE` = 9 (R8, D6): the phase 15 is reserved, and a reset decoder is in phase 9. -/
theorem test_idle_parameter :
    decode { Config.default with idle := 9 } .v6 9 0x0800 = .ok (.dec6IdleHold ⟨0x0800⟩) ∧
    decode { Config.default with idle := 9 } .v6 15 0x0800 = .error .reservedPhase ∧
    (State.resetOf .v4 { Config.default with idle := 9 }).dec.nextDigit = 9 := by decide

/-- Frames (R165 worked examples; R90). -/
theorem test_frames : frameLevels 0x41 = [false, true, false, false, false, false, false, true, true] ∧
    frameLevels 0x0D = [false, true, false, true, true, false, false, false, true] ∧
    frameLoad 0x20 = 0x140 ∧ frameLoad 0x2B = 0x156 ∧ frameLoad 0x34 = 0x168 := by decide

/-! ### Sequencer, interrupts, watchdog (95 section 6) -/

/-- A V6 device in its loop. -/
def inLoop (d : Dec6) (q : Sequencer) (awake : Bool) (e : Env) : State :=
  { at6 d with seq := q, awake := awake, wdtArmed := true, env := e }

/-- A device at a place of its loop, awake or not, with coming samples. -/
def looping (d : Dec6) (p : SeqPos) (awake : Bool) (ws : List Word) : State :=
  inLoop d { State.reset.seq with pos := p } awake ⟨[.main], ws, 0⟩

/-- S-1. -/
theorem test_seq_init : after (exec .seqInit State.reset)
      (fun t => (t.dec, t.tx, t.txd, t.awake)) = some (.v6 ⟨0, 0, 15⟩, ⟨false, 0x1FF, 0, 0⟩, true, false) ∧
    after (exec .seqInit State.reset) (fun t => (t.ie, t.ifg, t.wdtArmed, t.seqState)) =
      some (noLines, noLines, true, some .armedIdle) := by decide

/-- S-2, S-3: the relevant lines. -/
theorem test_seq_arm_relevant : relevant Config.default (.v6 ⟨0, 0, 15⟩) = some (lineSet [.v6 .mup]) ∧
    relevant Config.default (.v6 ⟨0x12, 0, 2⟩) = some (lineSet [.v6 .mup, .v6 .s3]) ∧
    relevant Config.default (.v4 ⟨0, 0, 1⟩) = some (lineSet [.v4 .mup, .v4 .dg3]) := by decide

/-- S-8, and `awake` = 0 (R203). -/
theorem test_seq_sleep : after (exec .seqSleep (looping ⟨0, 0, 15⟩ .sleep true []))
      (fun t => (t.awake, t.seq.asleep, t.seq.pos)) = some (false, false, .wake) ∧
    after (exec .seqSleep (looping ⟨0, 0, 15⟩ .sleep false []))
      (fun t => (t.awake, t.seq.asleep, t.seq.pos)) = some (false, true, .sleep) := by decide

/-- R205: the example, with the reserved bit set by the environment and cleared by the sampler. -/
theorem test_seq_wake_sample : after (exec .seqWake (looping ⟨0, 0, 15⟩ .wake false [])) (·.seq.pos) = some .sample ∧
    after (exec .seqSample (looping ⟨0, 0, 15⟩ .sample false [0x8043, 0x0001]))
      (fun t => (t.seq.sample, t.env.samples)) = some (0x0043, [0x0001]) := by decide

/-- S-10: the completing step goes on at `SEQ.AUX`; R206: another at `SEQ.ARM`. -/
theorem test_seq_step :
    after (exec .seqStep { looping ⟨0x012345, 3, 5⟩ .step false [] with
        seq := { State.reset.seq with pos := .step, sample := 0x0206 } })
      (fun t => (t.dec, t.seq.pos)) = some (.v6 ⟨0x123456, 3, 6⟩, .aux) ∧
    after (exec .seqStep { looping ⟨0x12, 0, 2⟩ .step false [] with
        seq := { State.reset.seq with pos := .step, sample := 0x0043 } })
      (fun t => (t.dec, t.seq.pos)) = some (.v6 ⟨0x123, 0, 3⟩, .arm) := by decide

/-- R207: the example. -/
theorem test_seq_aux : after (exec .seqAux (looping ⟨0x123456, 3, 6⟩ .aux false [0x4000]))
    (fun t => (t.seq.aux, t.seq.reading, t.seq.dp, t.seq.pos)) = some (0x4000, 0x123456, 3, .format) := by decide

/-- R208: the example. -/
theorem test_seq_format : after (exec .seqFormat { looping ⟨0x123456, 3, 6⟩ .format false [] with
      seq := { State.reset.seq with pos := .format, aux := 0x4000, reading := 0x123456, dp := 3 } })
    (fun t => (t.txbuf, t.seq.pos)) =
    some (cells [0x20, 0x31, 0x32, 0x33, 0x2E, 0x34, 0x35, 0x36, 0x6D, 0x73, 0x0D, 0x0A, 0x00], .transmit) := by
  decide +kernel

theorem test_seq_transmit_rearm : after (exec .seqTransmit (texted [0x41, 0x0D, 0x0A, 0x00]))
      (fun t => (t.tx, t.seq.pos)) = some (⟨true, 0x182, 9, 0⟩, .rearm) ∧
    after (exec .seqRearm (looping ⟨0x123456, 3, 6⟩ .rearm false [])) (fun t => (t.dec, t.seq.pos)) =
      some (.v6 ⟨0, 0, 15⟩, .arm) := by decide

/-- S-5, S-6. -/
theorem test_irq_edge :
    after (exec (.irqEdge (.v6 .s3)) { at6 ⟨0, 0, 2⟩ with ie := lineSet [.v6 .mup, .v6 .s3] }) (·.ifg) =
      some (lineSet [.v6 .s3]) ∧
    after (exec (.irqEdge (.v6 .s5)) { at6 ⟨0, 0, 2⟩ with ie := lineSet [.v6 .mup, .v6 .s3] }) (·.ifg) =
      some noLines := by decide

/-- S-7. -/
theorem test_irq_handle :
    after (exec .irqHandle { at6 ⟨0x12, 0, 2⟩ with ifg := lineSet [.v6 .s3, .v6 .mup] })
      (fun t => (t.ifg, t.awake, t.dec)) = some (noLines, true, .v6 ⟨0x12, 0, 2⟩) := by decide

/-- S-11, S-12. -/
theorem test_wdt_reset :
    after (exec .wdtReset (looping ⟨0x12, 0, 2⟩ .arm true [])) (fun t => (t.dec, t.seq.pos, t.awake, t.wdtArmed, t.wire)) =
      some (.v6 ⟨0, 0, 15⟩, .init, false, false, []) ∧
    refusal (exec .wdtReset (looping ⟨0x123456, 3, 6⟩ .aux false [])) = some .notEnabled := by decide

/-- S-13: the extra wake of a line change in transmission waits while the transmitter is busy. -/
theorem test_main_waits_while_busy :
    after (step { sending [0x41, 0x00] ⟨true, 0x182, 9, 0⟩ with env := ⟨[.main], [], 0⟩ }) (·.tx) =
      some ⟨true, 0x182, 9, 0⟩ := by decide


/-! ### Witnesses: values that meet the hypotheses of each statement -/

theorem witness_Dec6HoldingClassesWriteNothing : (∀ d, 7 ≤ (at6 d).cfg.idle.toNat) ∧
    (∃ d : Dec6, (at6 d).dec = .v6 d ∧ d.nextDigit = 15 ∧ (⟨0x0817⟩ : Sin6).asserted (at6 d).cfg .mup = true) ∧
    (∃ d : Dec6, (at6 d).dec = .v6 d ∧ d.nextDigit = 6) ∧
    ∀ n : Fin 6, ∃ d : Dec6, (at6 d).dec = .v6 d ∧ d.nextDigit = BitVec.ofNat 4 n.val ∧
      (⟨0x7400⟩ : Sin6).asserted (at6 d).cfg .mup = false ∧
      (⟨0x7400⟩ : Sin6).asserted (at6 d).cfg ([.s1, .s2, .s3, .s4, .s5, .s6].get n) = false :=
  ⟨fun _ => by show 7 ≤ (15 : BitVec 4).toNat; decide, ⟨⟨0, 0, 15⟩, rfl, rfl, rfl⟩, ⟨⟨0x123456, 3, 6⟩, rfl, rfl⟩, fun n => ⟨⟨0, 0, BitVec.ofNat 4 n.val⟩, rfl, rfl,
    by fin_cases n <;> decide⟩⟩

theorem witness_Dec6SyncClearsAndExpectsFirstDigit : ∃ d : Dec6, (at6 d).dec = .v6 d ∧ d.nextDigit = 15 ∧
    (⟨0x0015⟩ : Sin6).asserted (at6 d).cfg .mup = false := ⟨⟨0, 0, 15⟩, rfl, rfl, rfl⟩

theorem witness_Dec6AbortClearsBackToIdle : ∀ p ∈ ([0, 5] : List (BitVec 4)), (at6 ⟨0, 0, p⟩).dec = .v6 ⟨0, 0, p⟩ ∧
    7 ≤ (at6 ⟨0, 0, p⟩).cfg.idle.toNat ∧
    p.toNat ≤ 5 ∧ (⟨0x0A06⟩ : Sin6).asserted (at6 ⟨0, 0, p⟩).cfg .mup = true := by decide

theorem witness_Dec6CaptureShiftsDigitIn : ∀ n : Fin 6,
    (at6 ⟨0, 0, BitVec.ofNat 4 n.val⟩).dec = .v6 ⟨0, 0, BitVec.ofNat 4 n.val⟩ ∧
    7 ≤ (at6 ⟨0, 0, BitVec.ofNat 4 n.val⟩).cfg.idle.toNat ∧ 24 ≤ (at6 ⟨0, 0, BitVec.ofNat 4 n.val⟩).cfg.wReading6 ∧
    (⟨0x07F9⟩ : Sin6).asserted Config.default .mup = false ∧
    (⟨0x07F9⟩ : Sin6).asserted Config.default ([.s1, .s2, .s3, .s4, .s5, .s6].get n) = true := by decide

theorem witness_Dec6StepPerformsExactlyOneClass : ∀ p ∈ ([0, 6, 15, 7] : List (BitVec 4)),
    (at6 ⟨0, 0, p⟩).dec = .v6 ⟨0, 0, p⟩ ∧ (p = 7 ∨ p.toNat ≤ 6 ∨ p = 15) := by decide

theorem witness_DecoderResetFromEveryPhase : (at6 ⟨1, 1, 9⟩).dec = .v6 ⟨1, 1, 9⟩ ∧
    (at4 .lsdFirst ⟨1, 0, 4⟩).dec = .v4 ⟨1, 0, 4⟩ := by decide

theorem witness_Dec4HoldingClassesWriteNothing : (∀ d, 7 ≤ (at4 .lsdFirst d).cfg.idle.toNat) ∧
    (∃ d : Dec4, (at4 .lsdFirst d).dec = .v4 d ∧ d.nextDigit = 15 ∧
      (⟨0x0196⟩ : Sin4).asserted (at4 .lsdFirst d).cfg .mup = true) ∧
    (∃ d : Dec4, (at4 .lsdFirst d).dec = .v4 d ∧ d.nextDigit = 4) ∧
    ∀ k : Fin 4, ∃ d : Dec4, (at4 .lsdFirst d).dec = .v4 d ∧ d.nextDigit = BitVec.ofNat 4 k.val ∧
      (⟨0x000F⟩ : Sin4).asserted (at4 .lsdFirst d).cfg .mup = false ∧
      (⟨0x000F⟩ : Sin4).asserted (at4 .lsdFirst d).cfg ([.dg1, .dg3, .dg2, .dg4].get k) = false :=
  ⟨fun _ => by show 7 ≤ (15 : BitVec 4).toNat; decide, ⟨⟨0, 0, 15⟩, rfl, rfl, rfl⟩, ⟨⟨0x6010, 0, 4⟩, rfl, rfl⟩, fun k => ⟨⟨0, 0, BitVec.ofNat 4 k.val⟩, rfl, rfl,
    by fin_cases k <;> decide⟩⟩

theorem witness_Dec4SyncAndAbortClear : (at4 .lsdFirst ⟨0, 0, 15⟩).dec = .v4 ⟨0, 0, 15⟩ ∧
    7 ≤ (at4 .lsdFirst ⟨0, 0, 15⟩).cfg.idle.toNat ∧
    (⟨0x0019⟩ : Sin4).asserted Config.default .mup = false ∧
    (∀ p ∈ ([0, 3] : List (BitVec 4)), (at4 .lsdFirst ⟨0, 0, p⟩).dec = .v4 ⟨0, 0, p⟩ ∧
      7 ≤ (at4 .lsdFirst ⟨0, 0, p⟩).cfg.idle.toNat ∧ p.toNat ≤ 3) ∧
    (⟨0x0186⟩ : Sin4).asserted Config.default .mup = true := by decide

theorem witness_Dec4CapturePlacesNibble : ∀ num ∈ [Numbering4.lsdFirst, .msdFirst], ∀ k : Fin 4,
    (at4 num ⟨0, 0, BitVec.ofNat 4 k.val⟩).dec = .v4 ⟨0, 0, BitVec.ofNat 4 k.val⟩ ∧
    7 ≤ (at4 num ⟨0, 0, BitVec.ofNat 4 k.val⟩).cfg.idle.toNat ∧
    16 ≤ (at4 num ⟨0, 0, BitVec.ofNat 4 k.val⟩).cfg.wReading4 ∧
    (⟨0x00F9⟩ : Sin4).asserted Config.default .mup = false ∧
    (⟨0x00F9⟩ : Sin4).asserted Config.default ([.dg1, .dg3, .dg2, .dg4].get k) = true := by decide

theorem witness_Dec4StepPerformsExactlyOneClass : ∀ p ∈ ([0, 4, 15, 5] : List (BitVec 4)),
    (at4 .msdFirst ⟨0, 0, p⟩).dec = .v4 ⟨0, 0, p⟩ ∧ (p = 5 ∨ p.toNat ≤ 4 ∨ p = 15) := by decide

theorem witness_ReservedPhaseIsRefused :
    (∀ p ∈ ([7, 14] : List (BitVec 4)), (at6 ⟨0, 0, p⟩).dec = .v6 ⟨0, 0, p⟩ ∧ 7 ≤ p.toNat ∧ p ≠ (at6 ⟨0, 0, p⟩).cfg.idle) ∧
    ∀ p ∈ ([5, 14] : List (BitVec 4)), (at4 .lsdFirst ⟨0, 0, p⟩).dec = .v4 ⟨0, 0, p⟩ ∧ 5 ≤ p.toNat ∧
      p ≠ (at4 .lsdFirst ⟨0, 0, p⟩).cfg.idle := by
  decide

theorem witness_UnselectedClassIsRefused :
    (classify6 Config.default 2 ⟨0x0043⟩ = some (.capture 2) ∧ Class6.hold 2 ≠ .capture 2) ∧
    (classify4 Config.default 2 ⟨0x0021⟩ = some (.capture 2) ∧ Class4.capture 3 ≠ .capture 2) := by decide

theorem witness_OtherFamilyIsRefused : (at4 .lsdFirst ⟨0, 0, 15⟩).dec = .v4 ⟨0, 0, 15⟩ ∧
    (at6 ⟨0, 0, 15⟩).dec = .v6 ⟨0, 0, 15⟩ := by decide

/-- V6-2 to V6-4: the second call captures, the third does not. -/
theorem witness_Dec6RepeatedWordLaw : 7 ≤ (at6 ⟨0, 0, 15⟩).cfg.idle.toNat ∧ 7 ≤ (at6 ⟨0, 0, 0⟩).cfg.idle.toNat ∧
    exec (.dec6Step ⟨0x0015⟩) (at6 ⟨0, 0, 15⟩) = .next (at6 ⟨0, 0, 0⟩) ∧
    exec (.dec6Step ⟨0x0015⟩) (at6 ⟨0, 0, 0⟩) = .next (at6 ⟨5, 0, 1⟩) ∧
    exec (.dec6Step ⟨0x0015⟩) (at6 ⟨5, 0, 1⟩) = .next (at6 ⟨5, 0, 1⟩) := ⟨by decide, by decide, rfl, rfl, rfl⟩

theorem witness_Dec4RepeatedWordLaw : 7 ≤ (at4 .lsdFirst ⟨0, 0, 15⟩).cfg.idle.toNat ∧
    7 ≤ (at4 .lsdFirst ⟨0, 0, 0⟩).cfg.idle.toNat ∧
    exec (.dec4Step ⟨0x0019⟩) (at4 .lsdFirst ⟨0, 0, 15⟩) = .next (at4 .lsdFirst ⟨0, 0, 0⟩) ∧
    exec (.dec4Step ⟨0x0019⟩) (at4 .lsdFirst ⟨0, 0, 0⟩) = .next (at4 .lsdFirst ⟨9, 0, 1⟩) ∧
    exec (.dec4Step ⟨0x0019⟩) (at4 .lsdFirst ⟨9, 0, 1⟩) = .next (at4 .lsdFirst ⟨9, 0, 1⟩) := ⟨by decide, by decide, rfl, rfl, rfl⟩

theorem reachable6_mid : (⟨0x001234, 3, 4⟩ : Dec6).Reachable Config.default :=
  .inr ⟨by decide, by decide, .inr ⟨by decide, by decide⟩⟩

theorem reachable4_mid : (⟨0x0709, 0, 2⟩ : Dec4).Reachable Config.default := by
  refine ⟨rfl, .inr ⟨by decide, ?_⟩⟩
  decide

theorem witness_UpdateLineAbortsIncompleteReading :
    (7 ≤ (at6 ⟨0x001234, 3, 4⟩).cfg.idle.toNat ∧ (at6 ⟨0x001234, 3, 4⟩).dec = .v6 ⟨0x001234, 3, 4⟩ ∧ (⟨0x001234, 3, 4⟩ : Dec6).Reachable Config.default ∧ (4 : BitVec 4) ≠ 6 ∧
      (⟨0x0800⟩ : Sin6).asserted Config.default .mup = true) ∧
    (7 ≤ (at4 .lsdFirst ⟨0x0709, 0, 2⟩).cfg.idle.toNat ∧ (at4 .lsdFirst ⟨0x0709, 0, 2⟩).dec = .v4 ⟨0x0709, 0, 2⟩ ∧
      (⟨0x0709, 0, 2⟩ : Dec4).Reachable (at4 .lsdFirst ⟨0x0709, 0, 2⟩).cfg ∧
      (2 : BitVec 4) ≠ 4 ∧ (⟨0x0100⟩ : Sin4).asserted Config.default .mup = true) :=
  ⟨⟨by decide, rfl, reachable6_mid, by decide, by decide⟩, by decide, rfl, reachable4_mid, by decide, by decide⟩

/-- The six words of T2. -/
def sweepT2 : Fin 6 → Sin6 := ![⟨0x0011⟩, ⟨0x0022⟩, ⟨0x0043⟩, ⟨0x0484⟩, ⟨0x0105⟩, ⟨0x0206⟩]

theorem witness_Sweep6PacksDigitsInOrder : 7 ≤ (at6 ⟨0, 0, 0⟩).cfg.idle.toNat ∧
    24 ≤ (at6 ⟨0, 0, 0⟩).cfg.wReading6 ∧
    (at6 ⟨0, 0, 0⟩).dec = .v6 ⟨0, 0, 0⟩ ∧
    ∀ n, (sweepT2 n).asserted Config.default .mup = false ∧
      (sweepT2 n).asserted Config.default (strobe6 n) = true := by decide

/-- The four words of T3. -/
def sweepT3 : Fin 4 → Sin4 := ![⟨0x0010⟩, ⟨0x0040⟩, ⟨0x0021⟩, ⟨0x0086⟩]

theorem witness_Sweep4PlacesNibblesByStrobe :
    (∀ num ∈ [Numbering4.lsdFirst, .msdFirst],
      7 ≤ (at4 num ⟨0, 0, 0⟩).cfg.idle.toNat ∧ 16 ≤ (at4 num ⟨0, 0, 0⟩).cfg.wReading4 ∧
      (at4 num ⟨0, 0, 0⟩).dec = .v4 ⟨0, 0, 0⟩) ∧
    ∀ k, (sweepT3 k).asserted Config.default .mup = false ∧
      (sweepT3 k).asserted Config.default ([.dg1, .dg3, .dg2, .dg4].get k) = true := by decide

theorem witness_NextDigitMovesOnlyByTheRules : ∃ t, exec .seqRearm (looping ⟨0x123456, 3, 6⟩ .rearm false []) = .next t :=
  ⟨_, rfl⟩

theorem witness_CompleteReadingIsFrozen :
    7 ≤ (at6 ⟨0x123456, 3, 6⟩).cfg.idle.toNat ∧ (at6 ⟨0x123456, 3, 6⟩).dec.complete = true ∧
    exec (.dec6Step ⟨0x0800⟩) (at6 ⟨0x123456, 3, 6⟩) = .next (at6 ⟨0x123456, 3, 6⟩) ∧
    Instr.dec6Step ⟨0x0800⟩ ∉ [Instr.dec6Reset, .dec4Reset, .seqInit, .seqRearm, .wdtReset] :=
  ⟨by decide, rfl, rfl, by decide⟩

theorem witness_DecodeEncodeAgree : 7 ≤ Config.default.idle.toNat ∧
    ((Instr.dec6Capture6 ⟨0x0206⟩).wellFormed Config.default = true ∧ encode (.dec6Capture6 ⟨0x0206⟩) = some 0x0206 ∧
      tableRow 15 (.dec6Capture6 ⟨0x0206⟩) = some ⟨.v6, [5], 0x0A00, 0x0200⟩ ∧ (5 : BitVec 4) ∈ ([5] : List (BitVec 4))) ∧
    ((Instr.dec4Abort ⟨0x0186⟩).wellFormed Config.default = true ∧ encode (.dec4Abort ⟨0x0186⟩) = some 0x0186 ∧
      tableRow 15 (.dec4Abort ⟨0x0186⟩) = some ⟨.v4, [0, 1, 2, 3], 0x0100, 0x0100⟩ ∧
      (3 : BitVec 4) ∈ ([0, 1, 2, 3] : List (BitVec 4))) := by decide

theorem witness_TableRowsSelectTheClass :
    (tableRow 15 ((Class6.capture 5).instr ⟨0x0206⟩) = some ⟨.v6, [5], 0x0A00, 0x0200⟩ ∧
      classify6 Config.default 5 ⟨0x0206⟩ = some (.capture 5)) ∧
    (tableRow 15 ((Class4.hold 1).instr ⟨0x0021⟩) = some ⟨.v4, [1], 0x0140, 0x0000⟩ ∧
      classify4 Config.default 1 ⟨0x0021⟩ = some (.hold 1)) ∧
    ((6 : BitVec 4).toNat ≤ 6 ∧ (4 : BitVec 4).toNat ≤ 4 ∧ (15 : BitVec 4) = 15) := by decide

theorem witness_ReservedBitsAreIgnored : (∃ t, exec .seqSample (looping ⟨0, 0, 15⟩ .sample false [0x8043]) = .next t) ∧
    ∃ t, exec .seqAux (looping ⟨0, 0, 6⟩ .aux false [0x8043]) = .next t := ⟨⟨_, rfl⟩, _, rfl⟩

/-- Every turn at the head of a schedule, with the transmitter busy and idle; and the empty schedule of the reset state. -/
theorem witness_StepRunsTheOperationOfItsTurn :
    (∀ u ∈ [Turn.main, .edge (.v6 .s3), .irq, .bitClock, .watchdog],
      ({ sending [0x41, 0x00] ⟨true, 0x182, 9, 0⟩ with env := ⟨[u], [], 0⟩ } : State).turn = u ∧
      (inLoop ⟨0, 0, 15⟩ ⟨.arm, false, 0, 0, 0, 0⟩ false ⟨[u], [], 0⟩).turn = u ∧
      (inLoop ⟨0, 0, 15⟩ ⟨.arm, false, 0, 0, 0, 0⟩ false ⟨[u], [], 0⟩).tx.busy = false) ∧
    (sending [0x41, 0x00] ⟨true, 0x182, 9, 0⟩).tx.busy = true ∧ State.reset.env.turns = [] := by decide

theorem witness_StepRunsTheDecodedSample :
    (State.reset.placeWord 0x0484).turn = .main ∧ (State.reset.placeWord 0x0484).seq.pos = .step ∧
    (State.reset.placeWord 0x0484).tx.busy = false ∧
    decode (State.reset.placeWord 0x0484).cfg (State.reset.placeWord 0x0484).variant
      (State.reset.placeWord 0x0484).dec.nextDigit (State.reset.placeWord 0x0484).seq.sample =
      .ok (.dec6Capture4 ⟨0x0484⟩) := by decide

theorem witness_TxSendStartsTheFirstFrame : ∀ cs ∈ ([[0x41, 0x00], [0x00]] : List (List Byte)),
    (texted cs).tx.busy = false ∧ cs.length - 1 < (texted cs).txbufLen ∧
    (texted cs).txbuf.read (cs.length - 1) = some 0 ∧ (texted cs).txbuf.read 0 = cs[0]? ∧ cs[0]?.isSome := by decide

theorem witness_TxSendRefusals : (sending [0x41, 0x00] ⟨true, 0x182, 9, 0⟩).tx.busy = true ∧
    (texted (List.replicate 14 0x41)).tx.busy = false ∧
    ∀ i < (texted (List.replicate 14 0x41)).txbufLen, (texted (List.replicate 14 0x41)).txbuf.read i ≠ some 0 := by decide

theorem witness_TxLoadFramesNextCharacter :
    ((sending [0x41, 0x00] ⟨true, 0x1FF, 0, 1⟩).tx.idx.toNat < (sending [0x41, 0x00] ⟨true, 0x1FF, 0, 1⟩).txbufLen ∧
      (texted [0x41, 0x00]).txbuf.read 1 = some 0 ∧ (texted [0x41, 0x00]).txbuf.read 0 = some 0x41) ∧
    (sending [] ⟨true, 0x1FF, 0, 14⟩).tx.idx.toNat = (sending [] ⟨true, 0x1FF, 0, 14⟩).txbufLen ∧
    (sending [] ⟨true, 0x1FF, 0, 15⟩).txbufLen < (sending [] ⟨true, 0x1FF, 0, 15⟩).tx.idx.toNat ∧
    ((sending [] ⟨true, 0x1FF, 0, 13⟩).tx.idx.toNat < (sending [] ⟨true, 0x1FF, 0, 13⟩).txbufLen ∧
      (sending [] ⟨true, 0x1FF, 0, 13⟩).txbuf.read 13 = none) := by decide

theorem witness_TxTickDrivesOneBit : ∀ n ∈ ([1, 9] : List (BitVec 4)),
    (sending [0x41, 0x00] ⟨true, 0x182, n, 0⟩).tx.busy = true ∧ n ≠ 0 ∧
    (sending [0x41, 0x00] ⟨false, 0x182, n, 0⟩).tx.busy = false ∧
    (sending [0x41, 0x00] ⟨true, 0x182, 0, 0⟩).tx.cnt = 0 := by decide

theorem witness_OneFrameOnTheWire : (sending [0x41, 0x00] ⟨true, 0x1FF, 0, 0⟩).tx.busy = true ∧
    (0 : BitVec 4).toNat < (sending [0x41, 0x00] ⟨true, 0x1FF, 0, 0⟩).txbufLen ∧
    (texted [0x41, 0x00]).txbuf.read 0 = some 0x41 ∧ (0x41 : Byte) ≠ 0 := by decide

/-- P4's text, the empty text, and the longest one. -/
theorem witness_TransmissionPutsTheTextOnTheWire :
    ∀ cs ∈ ([[0x41, 0x0D, 0x0A], [], List.replicate 13 0x41] : List (List Byte)),
    (texted (cs ++ [0])).cfg.valid = true ∧ (texted (cs ++ [0])).tx.busy = false ∧
    cs.length < (texted (cs ++ [0])).txbufLen ∧
    (∀ (i : Nat) (h : i < cs.length), (texted (cs ++ [0])).txbuf.read i = some cs[i] ∧ cs[i] ≠ 0) ∧
    (texted (cs ++ [0])).txbuf.read cs.length = some 0 := by decide

theorem witness_OnlyTheTransmitterDrivesTheLine :
    (∃ t, exec .txTick (sending [0x41, 0x00] ⟨true, 0x182, 9, 0⟩) = .next t) ∧
    ∃ t, exec .seqWake (looping ⟨0, 0, 15⟩ .wake false []) = .next t := ⟨⟨_, rfl⟩, _, rfl⟩

theorem witness_Fmt6WritesTheLine : (at6 ⟨0, 0, 6⟩).dec = .v6 ⟨0, 0, 6⟩ ∧ (at6 ⟨0, 0, 6⟩).cfg.valid = true ∧
    ∀ p ∈ ([0, 1, 6] : List (BitVec 3)), p.toNat ≤ 6 := by decide

theorem witness_Fmt4WritesTheLine : (at4 .lsdFirst ⟨0, 0, 4⟩).dec = .v4 ⟨0, 0, 4⟩ ∧
    (at4 .lsdFirst ⟨0, 0, 4⟩).cfg.valid = true := by decide

theorem witness_FormattedLineIsTerminatedAscii :
    ((at6 ⟨0, 0, 6⟩).cfg.valid = true ∧ ∃ t, exec (.fmt6 0x123456 6 ⟨0⟩) (at6 ⟨0, 0, 6⟩) = .next t) ∧
    ((at4 .lsdFirst ⟨0, 0, 4⟩).cfg.valid = true ∧ ∃ t, exec (.fmt4 0x6010) (at4 .lsdFirst ⟨0, 0, 4⟩) = .next t) :=
  ⟨⟨by decide, _, rfl⟩, by decide, _, rfl⟩

theorem witness_SeqInitAndRearmResetTheDecoder :
    (Decoder.v6 ⟨0, 0, 15⟩) = (match (at6 ⟨1, 1, 6⟩).dec with
      | .v6 _ => .v6 { reading := 0, dp := 0, nextDigit := 15 }
      | .v4 _ => .v4 { reading := 0, dp := 0, nextDigit := 15 }) := rfl

theorem witness_SeqArmArmsTheRelevantLines :
    (∀ p ∈ ([15, 0, 5] : List (BitVec 4)), (at6 ⟨0, 0, p⟩).dec = .v6 ⟨0, 0, p⟩ ∧
      7 ≤ (at6 ⟨0, 0, p⟩).cfg.idle.toNat ∧ (p = 15 ∨ p.toNat ≤ 5)) ∧
    (∀ p ∈ ([15, 0, 3] : List (BitVec 4)), (at4 .lsdFirst ⟨0, 0, p⟩).dec = .v4 ⟨0, 0, p⟩ ∧
      7 ≤ (at4 .lsdFirst ⟨0, 0, p⟩).cfg.idle.toNat ∧ (p = 15 ∨ p.toNat ≤ 3)) ∧
    ((at6 ⟨0, 0, 6⟩).dec.complete = true ∧ (at4 .lsdFirst ⟨0, 0, 4⟩).dec.complete = true) ∧
    (∀ p ∈ ([7, 14] : List (BitVec 4)), (at6 ⟨0, 0, p⟩).dec.complete = false ∧ (at6 ⟨0, 0, p⟩).dec.capturing = false ∧
      (at6 ⟨0, 0, p⟩).dec.nextDigit ≠ 15) ∧
    (∀ p ∈ ([5, 14] : List (BitVec 4)), (at4 .lsdFirst ⟨0, 0, p⟩).dec.complete = false ∧
      (at4 .lsdFirst ⟨0, 0, p⟩).dec.capturing = false ∧ (at4 .lsdFirst ⟨0, 0, p⟩).dec.nextDigit ≠ 15) := by decide

theorem witness_SeqSleepWaitsForTheFlag : (looping ⟨0, 0, 15⟩ .sleep true []).awake = true ∧
    (looping ⟨0, 0, 15⟩ .sleep false []).awake = false ∧
    (inLoop ⟨0, 0, 15⟩ ⟨.sleep, true, 0, 0, 0, 0⟩ false ⟨[], [], 0⟩).seq.asleep = true := by decide

theorem witness_SeqWakeAndSample : (looping ⟨0, 0, 15⟩ .sample false [0x8043]).env.samples = [0x8043] ∧
    (looping ⟨0, 0, 15⟩ .sample false []).env.samples = [] := by decide

theorem witness_SeqStepIsOneDecoderStep :
    (∀ p ∈ ([0, 6, 15] : List (BitVec 4)), (at6 ⟨0, 0, p⟩).dec = .v6 ⟨0, 0, p⟩ ∧ (p.toNat ≤ 6 ∨ p = 15)) ∧
    ∀ p ∈ ([0, 4, 15] : List (BitVec 4)), (at4 .lsdFirst ⟨0, 0, p⟩).dec = .v4 ⟨0, 0, p⟩ ∧ (p.toNat ≤ 4 ∨ p = 15) := by
  decide

theorem witness_SeqAuxReadsTheResultOnce :
    (looping ⟨0x123456, 3, 6⟩ .aux false [0x4000]).env.samples = [0x4000] ∧
    (looping ⟨0x123456, 3, 6⟩ .aux false []).env.samples = [] ∧
    (looping ⟨0x123456, 3, 6⟩ .aux false []).dec = .v6 ⟨0x123456, 3, 6⟩ ∧
    (0x006010 : BitVec 24).toNat = (0x6010 : BitVec 16).toNat := by decide

theorem witness_SeqFormatAndTransmit :
    ((at6 ⟨0, 0, 6⟩).dec = .v6 ⟨0, 0, 6⟩ ∧ (at6 ⟨0, 0, 6⟩).cfg.valid = true ∧ (at6 ⟨0, 0, 6⟩).seq.dp.toNat ≤ 6) ∧
    ((at4 .lsdFirst ⟨0, 0, 4⟩).dec = .v4 ⟨0, 0, 4⟩ ∧ (at4 .lsdFirst ⟨0, 0, 4⟩).cfg.valid = true) ∧
    ((texted [0x41, 0x00]).tx.busy = false ∧ (texted [0x41, 0x00]).TextFrom 0) := by
  refine ⟨by decide, by decide, rfl, 1, by decide, by decide, rfl, fun j _ hj => ⟨0x41, ?_, by decide⟩⟩
  obtain rfl : j = 0 := by omega
  rfl

theorem witness_IrqEdgeSetsPendingOfArmedLine : lineIn (.v6 .s3) (lineSet [.v6 .mup, .v6 .s3]) = true ∧
    lineIn (.v6 .s5) (lineSet [.v6 .mup, .v6 .s3]) = false := by decide

theorem witness_WatchdogResetsTheDevice :
    (looping ⟨0, 0, 15⟩ .arm false []).wdtArmed = true ∧
    (looping ⟨0, 0, 15⟩ .arm false []).dec.nextDigit = 15 ∧ (looping ⟨0, 0, 5⟩ .arm false []).dec.capturing = true ∧
    (({ looping ⟨0, 0, 6⟩ .aux false [] with cfg := { Config.default with wdtInTx := true } } : State).dec.complete = true ∧
      ({ looping ⟨0, 0, 6⟩ .aux false [] with cfg := { Config.default with wdtInTx := true } } : State).cfg.wdtInTx = true) :=
  by decide

theorem witness_WatchdogIsNotEnabledInTransmission : State.reset.wdtArmed = false ∧
    (7 ≤ (looping ⟨0, 0, 6⟩ .aux false []).cfg.idle.toNat ∧ (looping ⟨0, 0, 6⟩ .aux false []).dec.complete = true ∧ (looping ⟨0, 0, 6⟩ .aux false []).cfg.wdtInTx = false) ∧
    (inLoop ⟨0, 0, 6⟩ ⟨.aux, false, 0, 0, 0, 0⟩ false ⟨[.watchdog], [], 0⟩).env.turns = [.watchdog] := by decide

theorem witness_ResetStateIsAsListed : State.reset = State.resetOf .v6 Config.default := rfl

theorem witness_ConfigurationIsNeverWritten : ∃ t, exec .seqInit State.reset = .next t := ⟨_, rfl⟩

theorem witness_OnlyTheFormatterWritesTheBuffer : ∃ t, exec .txSend (texted [0x41, 0x00]) = .next t ∧
    (∀ r p a, Instr.txSend ≠ .fmt6 r p a) ∧ (∀ r, Instr.txSend ≠ .fmt4 r) ∧ Instr.txSend ≠ .seqFormat ∧
    Instr.txSend ≠ .wdtReset :=
  ⟨_, rfl, fun _ _ _ h => (nomatch h), fun _ h => (nomatch h), fun h => (nomatch h), fun h => (nomatch h)⟩

/-! #### States of the invariant -/

/-- A device in its loop with an idle transmitter, at a place that asks nothing of the result or the buffer. -/
theorem inLoop_inv {d : Dec6} {q : Sequencer} {a : Bool} {e : Env} (hr : d.Reachable Config.default)
    (hc : (Decoder.v6 d).complete = q.pos.afterComplete) (hp : q.pos ≠ .init ∧ q.pos ≠ .format ∧ q.pos ≠ .transmit)
    (ha : q.asleep = false) : (inLoop d q a e).Inv where
  cfgValid := by show Config.default.valid = true; decide
  decReachable := hr
  bufWf := rfl
  bufBound := fun x hx => by cases hx
  completeIff := hc
  initDec := fun h => absurd h hp.1
  armedIff := by symm; simpa [inLoop] using hp.1
  asleepAt := fun h => by simp [inLoop, ha] at h
  result := fun h => absurd h hp.2.1
  toSend := fun h => absurd h hp.2.2
  busyAt := fun h => by cases h
  busyText := fun h => by cases h
  inFrame := fun h => by cases h
  cntLe := by show (0 : BitVec 4).toNat ≤ 9; decide
  marks := fun i _ hi => by
    show (0x1FF : BitVec 9).getLsbD i = true
    interval_cases i <;> rfl
  gapBetween := fun h => absurd rfl h
  gapLe := Nat.zero_le _
  lineMark := fun _ => rfl

/-- A device in the middle of a transmission. -/
def transmitting : State :=
  { sending [0x41, 0x00] ⟨true, 0x1C1, 8, 0⟩ with
    dec := .v6 ⟨0x123456, 3, 6⟩
    seq := ⟨.rearm, false, 0, 0, 0x123456, 3⟩
    txd := false
    wdtArmed := true
    env := ⟨[.bitClock], [], 0⟩ }

theorem transmitting_inv : transmitting.Inv where
  cfgValid := by show Config.default.valid = true; decide
  decReachable := .inr ⟨by decide, by decide, .inr ⟨by decide, by decide⟩⟩
  bufWf := by decide
  bufBound := by decide
  completeIff := rfl
  initDec := fun h => by cases h
  armedIff := rfl
  asleepAt := fun h => by cases h
  result := fun h => by cases h
  toSend := fun h => by cases h
  busyAt := fun _ => rfl
  busyText := fun _ => ⟨1, by decide, by decide, rfl, fun j _ hj => ⟨0x41, by
    obtain rfl : j = 0 := by omega
    exact ⟨rfl, by decide⟩⟩⟩
  inFrame := fun _ _ => ⟨0x41, rfl, by decide⟩
  cntLe := by decide
  marks := fun i h hi => by
    have h : 8 ≤ i + 1 := h
    obtain rfl | rfl : i = 7 ∨ i = 8 := by omega
    · rfl
    · rfl
  gapBetween := fun h => absurd rfl h
  gapLe := Nat.zero_le _
  lineMark := fun h => by rcases h with h | h <;> cases h

theorem witness_EveryStepRunsAndKeepsTheInvariant : transmitting.Inv ∧
    (looping ⟨0x001234, 3, 4⟩ .arm false []).Inv :=
  ⟨transmitting_inv, inLoop_inv reachable6_mid rfl ⟨by decide, by decide, by decide⟩ rfl⟩

/-- The step of P1 that completes a reading. -/
theorem witness_SequencerStateMovesOnlyByTheRules : ∃ s t : State, s.Inv ∧ step s = .next t ∧
    s.seqState = some .capturing ∧ t.seqState = some .fmtTx :=
  ⟨inLoop ⟨0x012345, 0, 5⟩ ⟨.step, false, 0x0206, 0, 0, 0⟩ false ⟨[.main], [], 0⟩, _,
    inLoop_inv (.inr ⟨by decide, by decide, .inl rfl⟩) rfl ⟨by decide, by decide, by decide⟩ rfl, rfl, rfl, rfl⟩

theorem witness_IncompleteReadingSendsNothing : ∃ s t : State, s.Inv ∧ runSteps 2 s = .next t ∧
    ∀ k < 2, ∀ u, runSteps k s = .next u → u.dec.complete = false := by
  refine ⟨inLoop ⟨0x000012, 0, 2⟩ ⟨.wake, false, 0, 0, 0, 0⟩ false ⟨[.main, .watchdog], [], 0⟩, _,
    inLoop_inv (.inr ⟨by decide, by decide, .inl rfl⟩) rfl ⟨by decide, by decide, by decide⟩ rfl, rfl, ?_⟩
  intro k hk u hu
  obtain rfl | rfl : k = 0 ∨ k = 1 := by omega
  · cases hu
    rfl
  · cases hu
    rfl

theorem witness_OneWakeIsOneDecoderStep :
    ∃ s : State, s.Inv ∧ s.dec = .v6 ⟨0x001234, 3, 4⟩ ∧ s.seq.pos = .arm ∧ s.awake = false ∧ s.env.samples = [0x0105] ∧
      s.env.turns = [.main, .edge (.v6 .mup), .irq, .main, .main, .main, .main] ++ [.bitClock] :=
  ⟨inLoop ⟨0x001234, 3, 4⟩ ⟨.arm, false, 0, 0, 0, 0⟩ false
      ⟨[.main, .edge (.v6 .mup), .irq, .main, .main, .main, .main, .bitClock], [0x0105], 0⟩,
    inLoop_inv reachable6_mid rfl ⟨by decide, by decide, by decide⟩ rfl, rfl, rfl, rfl, rfl, rfl⟩

/-- T2 (point after three digits), and no point. -/
theorem witness_DecodedSweepFormatsAsItsDigits : (at6 ⟨0, 0, 0⟩).cfg.valid = true ∧
    (at6 ⟨0, 0, 0⟩).dec = .v6 ⟨0, 0, 0⟩ ∧
    (∀ n, (sweepT2 n).asserted Config.default .mup = false ∧ (sweepT2 n).asserted Config.default (strobe6 n) = true ∧
      (digit6 Config.default (sweepT2 n)).toNat ≤ 9 ∧
      ((sweepT2 n).asserted Config.default .dp = true ↔ n.val + 1 = 7 - 3)) ∧
    (∀ n : Fin 6, (brace6 [strobe6 n] 9).asserted Config.default .mup = false ∧
      (brace6 [strobe6 n] 9).asserted Config.default (strobe6 n) = true ∧
      (digit6 Config.default (brace6 [strobe6 n] 9)).toNat ≤ 9 ∧
      ((brace6 [strobe6 n] 9).asserted Config.default .dp = true ↔ n.val + 1 = 7 - 0)) ∧
    (∀ num ∈ [Numbering4.lsdFirst, .msdFirst], (at4 num ⟨0, 0, 0⟩).cfg.valid = true ∧
      (at4 num ⟨0, 0, 0⟩).dec = .v4 ⟨0, 0, 0⟩) ∧
    ∀ k, (sweepT3 k).asserted Config.default .mup = false ∧
      (sweepT3 k).asserted Config.default ([.dg1, .dg3, .dg2, .dg4].get k) = true ∧
      (digit4 Config.default (sweepT3 k)).toNat ≤ 9 := by decide

theorem witness_ResetMeetsTheInvariant : Config.default.valid = true := by decide

end Sys2Proof.Tests
end

/-! Scope (00_scope.md): a step at `SEQ.STEP` runs the operation decoded from the sample. -/

namespace Sys2Proof.Proofs
open Sys2Proof.Machine

/-! ### The main thread's turn -/

/-- With the transmitter idle the main thread's turn performs the action at the sequencer's place (R200). -/
theorem step_main {s : State} (ht : s.turn = .main) (hb : s.tx.busy = false) :
    step s = exec s.seq.pos.op s.afterTurn := by
  have hop : s.afterTurn.op s.turn = some s.seq.pos.op := by simp [ht, State.op, hb]
  simp only [step, hop]

/-! ### Decoded words (R9, R100, R104) -/

/-- A V6 word decodes to the row of its class, its reserved bits cleared. -/
theorem decode6_eq_ok {c : Config} {p : BitVec 4} {w : Word} {i : Instr} :
    decode6 c p w = .ok i ↔ ∃ k, classify6 c p ⟨w⟩ = some k ∧ k.instr (Sin6.clean c ⟨w⟩) = i := by
  unfold decode6
  cases classify6 c p ⟨w⟩ <;> simp

theorem decode4_eq_ok {c : Config} {p : BitVec 4} {w : Word} {i : Instr} :
    decode4 c p w = .ok i ↔ ∃ k, classify4 c p ⟨w⟩ = some k ∧ k.instr (Sin4.clean c ⟨w⟩) = i := by
  unfold decode4
  cases classify4 c p ⟨w⟩ <;> simp

/-- The writes of a class do not see the reserved bits. -/
@[simp] theorem effect6_clean (c : Config) (sin : Sin6) (k : Class6) : effect6 c (sin.clean c) k = effect6 c sin k := by
  cases k <;> funext d <;> simp [effect6]

@[simp] theorem effect4_clean (c : Config) (sin : Sin4) (k : Class4) : effect4 c (sin.clean c) k = effect4 c sin k := by
  cases k <;> funext d <;> simp [effect4]

/-- A V6 class row has its effect on the cleaned word exactly as on the word itself. -/
theorem exec_class6_clean (k : Class6) (sin : Sin6) (s : State) :
    exec (k.instr (sin.clean s.cfg)) s = exec (k.instr sin) s := by
  simp [exec_class6, onClass6]

theorem exec_class4_clean (k : Class4) (sin : Sin4) (s : State) :
    exec (k.instr (sin.clean s.cfg)) s = exec (k.instr sin) s := by
  simp [exec_class4, onClass4]

/-- `DEC6.STEP` of a word is the operation the word decodes to. -/
theorem exec_dec6Step_decode {s : State} {d : Dec6} {w : Word} {i : Instr} (hd : s.dec = .v6 d)
    (h : decode6 s.cfg d.nextDigit w = .ok i) : exec (.dec6Step ⟨w⟩) s = exec i s := by
  obtain ⟨k, hk, rfl⟩ := decode6_eq_ok.1 h
  rw [exec_dec6Step_class hd hk, exec_class6_clean]

theorem exec_dec4Step_decode {s : State} {d : Dec4} {w : Word} {i : Instr} (hd : s.dec = .v4 d)
    (h : decode4 s.cfg d.nextDigit w = .ok i) : exec (.dec4Step ⟨w⟩) s = exec i s := by
  obtain ⟨k, hk, rfl⟩ := decode4_eq_ok.1 h
  rw [exec_dec4Step_class hd hk, exec_class4_clean]

/-! ### `SEQ.STEP` (R206) -/

/-- `SEQ.STEP` is the family's decoder step on the sample, and then the loop goes on. -/
theorem exec_seqStep_v6 {s : State} {d : Dec6} (hd : s.dec = .v6 d) :
    exec .seqStep s = onNext (exec (.dec6Step ⟨s.seq.sample⟩) s) State.afterStep := by
  simp only [exec, execSeqStep, hd]

theorem exec_seqStep_v4 {s : State} {d : Dec4} (hd : s.dec = .v4 d) :
    exec .seqStep s = onNext (exec (.dec4Step ⟨s.seq.sample⟩) s) State.afterStep := by
  simp only [exec, execSeqStep, hd]

/-- `SEQ.STEP` is the operation decoded from the sample in the decoder's phase, and then the loop goes on (R200). -/
theorem exec_seqStep_decode {s : State} {i : Instr}
    (h : decode s.cfg s.variant s.dec.nextDigit s.seq.sample = .ok i) :
    exec .seqStep s = onNext (exec i s) State.afterStep := by
  cases hd : s.dec with
  | v6 d =>
    have h6 : decode6 s.cfg d.nextDigit s.seq.sample = .ok i := by
      simpa [decode, State.variant, Decoder.nextDigit, hd] using h
    rw [exec_seqStep_v6 hd, exec_dec6Step_decode hd h6]
  | v4 d =>
    have h4 : decode4 s.cfg d.nextDigit s.seq.sample = .ok i := by
      simpa [decode, State.variant, Decoder.nextDigit, hd] using h
    rw [exec_seqStep_v4 hd, exec_dec4Step_decode hd h4]

/-- Settles O27: the main thread's turn performs `SEQ.STEP`, and that is the decoded operation followed by R200. -/
theorem stepRunsTheDecodedSample : Obligations.StepRunsTheDecodedSample := by
  unfold Obligations.StepRunsTheDecodedSample
  intro s i ht hp hb h
  have hstep : step s = exec .seqStep s.afterTurn := by rw [step_main ht hb, hp]; rfl
  rw [hstep, exec_seqStep_decode (i := i) (by simpa using h)]
  cases exec i s.afterTurn <;> rfl

end Sys2Proof.Proofs

/-! State (10_state.md): what reset leaves, that the invariant holds there, and which operations write the decoder and the
text buffer. -/

namespace Sys2Proof.Proofs
open Sys2Proof.Machine

/-! ### The state after reset (R36) -/

/-- A reset decoder is a cleared one. -/
@[simp] theorem cleared_reset (c : Config) (v : Variant) : (Decoder.reset c v).cleared c = Decoder.reset c v := by
  cases v <;> rfl

@[simp] theorem reset_nextDigit (c : Config) (v : Variant) : (Decoder.reset c v).nextDigit = c.idle := by
  simpa using Decoder.cleared_nextDigit c (Decoder.reset c v)

theorem reset_complete {c : Config} (hi : 7 ≤ c.idle.toNat) (v : Variant) : (Decoder.reset c v).complete = false := by
  simpa using Decoder.cleared_complete hi (Decoder.reset c v)

/-- The decoder that a full device reset leaves is its own decoder cleared (R121, R141, R250). -/
theorem reset_variant (s : State) : Decoder.reset s.cfg s.variant = s.dec.cleared s.cfg := by
  unfold State.variant
  cases s.dec <;> rfl

/-- A decoder phase of `IDLE` is the sequencer state `ARMED_IDLE` (R29). -/
theorem seqState_idle {s : State} (h : s.dec.nextDigit = s.cfg.idle) : s.seqState = some .armedIdle := if_pos h

/-- The idle shift register holds marks only (R26). -/
theorem idle_sr_bit {i : Nat} (hi : i < 9) : (0x1FF : BitVec 9).getLsbD i = true := by
  interval_cases i <;> rfl

/-- The reset state of a valid configuration meets the invariant, whatever has been sent and whatever the environment
does next: neither is part of it. -/
theorem resetOf_inv {c : Config} (hv : c.valid = true) (v : Variant) (w : List Bool) (e : Env) :
    State.Inv { State.resetOf v c with wire := w, env := e } where
  cfgValid := hv
  decReachable := Decoder.reset_reachable c v
  bufWf := rfl
  bufBound := fun _ hx => nomatch hx
  completeIff := reset_complete (valid_idle hv) v
  initDec := fun _ => reset_nextDigit c v
  armedIff := rfl
  asleepAt := fun h => nomatch h
  result := fun h => nomatch h
  toSend := fun h => nomatch h
  busyAt := fun h => nomatch h
  busyText := fun h => nomatch h
  inFrame := fun h => nomatch h
  cntLe := Nat.zero_le 9
  marks := fun _ _ hi => idle_sr_bit hi
  gapBetween := fun h => absurd rfl h
  gapLe := Nat.zero_le _
  lineMark := fun _ => rfl

/-- Settles O50: each entry of R36's table is a field of `State.resetOf`, or follows from its phase `IDLE`. -/
theorem resetStateIsAsListed : Obligations.ResetStateIsAsListed := by
  unfold Obligations.ResetStateIsAsListed
  rintro v c s rfl
  have hidle : (State.resetOf v c).seqState = some .armedIdle := seqState_idle (reset_nextDigit c v)
  refine ⟨?_, rfl, rfl, rfl, hidle, rfl, rfl, fun l => ⟨lineIn_noLines l, lineIn_noLines l⟩, rfl⟩
  cases v <;> rfl

/-- Settles O57: from `resetOf_inv`; the default configuration is valid. -/
theorem resetMeetsTheInvariant : Obligations.ResetMeetsTheInvariant := by
  unfold Obligations.ResetMeetsTheInvariant
  exact ⟨resetOf_inv (by decide) .v6 [] ⟨[], [], 0⟩, fun v c hv => resetOf_inv hv v [] ⟨[], [], 0⟩⟩

/-! ### Which operations write the decoder and the text buffer (R25, R28) -/

/-- How an operation can leave the decoder: as it was, with the writes of the class that R100 selects, or cleared by one of
the resets. -/
inductive DecWrite (i : Instr) (s t : State) : Prop
  | kept (ht : t.dec = s.dec)
  | class6 {d : Dec6} {k : Class6} {sin : Sin6} (hd : s.dec = .v6 d)
      (hk : classify6 s.cfg d.nextDigit sin = some k) (ht : t.dec = .v6 (effect6 s.cfg sin k d))
  | class4 {d : Dec4} {k : Class4} {sin : Sin4} (hd : s.dec = .v4 d)
      (hk : classify4 s.cfg d.nextDigit sin = some k) (ht : t.dec = .v4 (effect4 s.cfg sin k d))
  | cleared (hi : i ∈ [Instr.dec6Reset, .dec4Reset, .seqInit, .seqRearm, .wdtReset])
      (ht : t.dec = s.dec.cleared s.cfg)

/-- The operations that write a text: the formatters, and `SEQ.FORMAT`, which issues them (R208). -/
inductive Formats : Instr → Prop
  | fmt6 (r : BitVec 24) (p : BitVec 3) (a : Sin6) : Formats (.fmt6 r p a)
  | fmt4 (r : BitVec 16) : Formats (.fmt4 r)
  | seqFormat : Formats .seqFormat

/-- How an operation can leave the text buffer: as it was, filled anew by a formatter, or emptied by the watchdog's reset. -/
inductive BufWrite (i : Instr) (s t : State) : Prop
  | kept (ht : t.txbuf = s.txbuf)
  | filled {text : List Byte} (hi : Formats i) (ht : writeText s.txbufLen 0 text [] = some t.txbuf)
  | emptied (hi : i = .wdtReset) (ht : t.txbuf = [])

/-- What each operation writes of the decoder and of the text buffer. -/
theorem exec_writes {i : Instr} {s t : State} (h : exec i s = .next t) : DecWrite i s t ∧ BufWrite i s t := by
  induction i using instr_cases with
  | class6 k sin =>
    obtain ⟨d, hd, hk, rfl⟩ := exec_class6_next h
    exact ⟨.class6 hd hk rfl, .kept rfl⟩
  | class4 k sin =>
    obtain ⟨d, hd, hk, rfl⟩ := exec_class4_next h
    exact ⟨.class4 hd hk rfl, .kept rfl⟩
  | dec6Step sin =>
    obtain ⟨d, k, hd, hk, rfl⟩ := exec_dec6Step_next h
    exact ⟨.class6 hd hk rfl, .kept rfl⟩
  | dec4Step sin =>
    obtain ⟨d, k, hd, hk, rfl⟩ := exec_dec4Step_next h
    exact ⟨.class4 hd hk rfl, .kept rfl⟩
  | dec6Reset =>
    obtain ⟨-, rfl⟩ := exec_dec6Reset_next h
    exact ⟨.cleared (by simp) rfl, .kept rfl⟩
  | dec4Reset =>
    obtain ⟨-, rfl⟩ := exec_dec4Reset_next h
    exact ⟨.cleared (by simp) rfl, .kept rfl⟩
  | fmt6 r p a =>
    obtain ⟨m, n, text, hm, rfl⟩ := fmt_frame (.inl ⟨r, p, a, h⟩)
    exact ⟨.kept rfl, .filled (.fmt6 r p a) hm⟩
  | fmt4 r =>
    obtain ⟨m, n, text, hm, rfl⟩ := fmt_frame (.inr ⟨r, h⟩)
    exact ⟨.kept rfl, .filled (.fmt4 r) hm⟩
  | txSend =>
    obtain ⟨x, b, rfl⟩ := execTxSend_frame h
    exact ⟨.kept rfl, .kept rfl⟩
  | txLoad =>
    obtain ⟨x, b, rfl, -⟩ := txLoadNext_frame h
    exact ⟨.kept rfl, .kept rfl⟩
  | txTick =>
    obtain ⟨-, -, rfl⟩ := execTxTick_next h
    exact ⟨.kept rfl, .kept rfl⟩
  | txDone =>
    cases h
    exact ⟨.kept rfl, .kept rfl⟩
  | seqInit =>
    cases h
    exact ⟨.cleared (by simp) rfl, .kept rfl⟩
  | seqArm =>
    obtain ⟨r, x, -, rfl⟩ := execSeqArm_next h
    exact ⟨.kept rfl, .kept rfl⟩
  | seqSleep =>
    obtain rfl := execSeqSleep_next h
    split <;> exact ⟨.kept rfl, .kept rfl⟩
  | seqWake =>
    cases h
    exact ⟨.kept rfl, .kept rfl⟩
  | seqSample =>
    cases h
    exact ⟨.kept (by simp), .kept (by simp)⟩
  | seqStep =>
    obtain ⟨u, ⟨-, hu⟩ | ⟨-, hu⟩, rfl⟩ := execSeqStep_next h
    · obtain ⟨d, k, hd, hk, rfl⟩ := exec_dec6Step_next hu
      exact ⟨.class6 hd hk rfl, .kept rfl⟩
    · obtain ⟨d, k, hd, hk, rfl⟩ := exec_dec4Step_next hu
      exact ⟨.class4 hd hk rfl, .kept rfl⟩
  | seqAux =>
    cases h
    exact ⟨.kept (by simp), .kept (by simp)⟩
  | seqFormat =>
    obtain ⟨m, n, text, hm, rfl⟩ := execSeqFormat_next h
    exact ⟨.kept rfl, .filled .seqFormat hm⟩
  | seqTransmit =>
    obtain ⟨u, hu, rfl⟩ := execSeqTransmit_next h
    obtain ⟨x, b, rfl⟩ := execTxSend_frame hu
    exact ⟨.kept rfl, .kept rfl⟩
  | seqRearm =>
    cases h
    exact ⟨.cleared (by simp) rfl, .kept rfl⟩
  | irqEdge l =>
    obtain rfl := execIrqEdge_next h
    split <;> exact ⟨.kept rfl, .kept rfl⟩
  | irqHandle =>
    cases h
    exact ⟨.kept rfl, .kept rfl⟩
  | wdtReset =>
    obtain ⟨-, rfl⟩ := execWdtReset_next h
    exact ⟨.cleared (by simp) (reset_variant s), .emptied rfl rfl⟩

/-- Settles O20: the class that R100 selects in the complete phase is FROZEN, which writes nothing (R127, R147). -/
theorem completeReadingIsFrozen : Obligations.CompleteReadingIsFrozen := by
  unfold Obligations.CompleteReadingIsFrozen
  intro i s t hidle hcomplete h hnot
  cases (exec_writes h).1 with
  | kept ht => exact ht
  | @class6 d k sin hd hk ht =>
    have hphase : d.nextDigit = 6 := by simpa [hd, Decoder.complete] using hcomplete
    rw [hphase, classify6_complete hidle] at hk
    obtain rfl : .frozen = k := Option.some.inj hk
    rw [ht, hd, effect6]
  | @class4 d k sin hd hk ht =>
    have hphase : d.nextDigit = 4 := by simpa [hd, Decoder.complete] using hcomplete
    rw [hphase, classify4_complete hidle] at hk
    obtain rfl : .frozen = k := Option.some.inj hk
    rw [ht, hd, effect4]
  | cleared hi _ => exact absurd hi hnot

/-- Every operation keeps the text buffer's canonical form: a formatter writes into an empty one (R28). -/
theorem BufWrite.wf {i : Instr} {s t : State} (h : BufWrite i s t) (hs : s.txbuf.wf = true) : t.txbuf.wf = true := by
  cases h with
  | kept ht => rwa [ht]
  | filled _ ht => exact writeText_wf ht Memory.wf_nil
  | emptied _ ht => rw [ht, Memory.wf_nil]

/-- Settles O52: an operation that is no formatter and no watchdog reset keeps the whole buffer. -/
theorem onlyTheFormatterWritesTheBuffer : Obligations.OnlyTheFormatterWritesTheBuffer := by
  unfold Obligations.OnlyTheFormatterWritesTheBuffer
  intro i s t h
  obtain ⟨-, hbuf⟩ := exec_writes h
  refine ⟨hbuf.wf, fun h6 h4 hformat hreset a => ?_⟩
  cases hbuf with
  | kept ht => rw [ht]
  | filled hi _ =>
    cases hi with
    | fmt6 r p a => exact absurd rfl (h6 r p a)
    | fmt4 r => exact absurd rfl (h4 r)
    | seqFormat => exact absurd rfl hformat
  | emptied hi _ => exact absurd hi hreset

end Sys2Proof.Proofs

/-! Memory (20_memory.md): the operation that each turn performs (R70), and that no operation writes the configuration or the
variant (R72). -/

namespace Sys2Proof.Proofs
open Sys2Proof.Machine

/-! ### The configuration and the variant (R2, R72) -/

theorem variant_v6 {s : State} {d : Dec6} (hd : s.dec = .v6 d) : s.variant = .v6 := by
  simp only [State.variant, hd]

theorem variant_v4 {s : State} {d : Dec4} (hd : s.dec = .v4 d) : s.variant = .v4 := by
  simp only [State.variant, hd]

/-- A cleared decoder is one of the same family. -/
theorem variant_cleared {s t : State} {c : Config} (ht : t.dec = s.dec.cleared c) : t.variant = s.variant := by
  cases hd : s.dec with
  | v6 d => rw [variant_v6 hd, variant_v6 (ht.trans (by rw [hd]; rfl))]
  | v4 d => rw [variant_v4 hd, variant_v4 (ht.trans (by rw [hd]; rfl))]

/-- However an operation leaves the decoder, it stays one of the same family. -/
theorem DecWrite.variant {i : Instr} {s t : State} (h : DecWrite i s t) : t.variant = s.variant := by
  cases h with
  | kept ht => simp only [State.variant, ht]
  | class6 hd _ ht => rw [variant_v6 hd, variant_v6 ht]
  | class4 hd _ ht => rw [variant_v4 hd, variant_v4 ht]
  | cleared _ ht => exact variant_cleared ht

/-- No operation writes the configuration: the frame of each leaves it out. -/
theorem exec_cfg {i : Instr} {s t : State} (h : exec i s = .next t) : t.cfg = s.cfg := by
  induction i using instr_cases with
  | class6 k sin =>
    obtain ⟨_, _, _, rfl⟩ := exec_class6_next h
    rfl
  | class4 k sin =>
    obtain ⟨_, _, _, rfl⟩ := exec_class4_next h
    rfl
  | dec6Step sin =>
    obtain ⟨_, _, _, _, rfl⟩ := exec_dec6Step_next h
    rfl
  | dec4Step sin =>
    obtain ⟨_, _, _, _, rfl⟩ := exec_dec4Step_next h
    rfl
  | dec6Reset =>
    obtain ⟨_, rfl⟩ := exec_dec6Reset_next h
    rfl
  | dec4Reset =>
    obtain ⟨_, rfl⟩ := exec_dec4Reset_next h
    rfl
  | fmt6 r p a =>
    obtain ⟨_, _, _, _, rfl⟩ := fmt_frame (.inl ⟨r, p, a, h⟩)
    rfl
  | fmt4 r =>
    obtain ⟨_, _, _, _, rfl⟩ := fmt_frame (.inr ⟨r, h⟩)
    rfl
  | txSend =>
    obtain ⟨_, _, rfl⟩ := execTxSend_frame h
    rfl
  | txLoad =>
    obtain ⟨_, _, rfl, _⟩ := txLoadNext_frame h
    rfl
  | txTick =>
    obtain ⟨_, _, rfl⟩ := execTxTick_next h
    rfl
  | seqArm =>
    obtain ⟨_, _, _, rfl⟩ := execSeqArm_next h
    rfl
  | seqSleep =>
    obtain rfl := execSeqSleep_next h
    split <;> rfl
  | seqSample =>
    cases h
    exact s.afterSample_cfg
  | seqStep =>
    obtain ⟨u, ⟨-, hu⟩ | ⟨-, hu⟩, rfl⟩ := execSeqStep_next h
    · obtain ⟨_, _, _, _, rfl⟩ := exec_dec6Step_next hu
      rfl
    · obtain ⟨_, _, _, _, rfl⟩ := exec_dec4Step_next hu
      rfl
  | seqAux =>
    cases h
    exact s.afterSample_cfg
  | seqFormat =>
    obtain ⟨_, _, _, _, rfl⟩ := execSeqFormat_next h
    rfl
  | seqTransmit =>
    obtain ⟨_, hu, rfl⟩ := execSeqTransmit_next h
    obtain ⟨_, _, rfl⟩ := execTxSend_frame hu
    rfl
  | irqEdge l =>
    obtain rfl := execIrqEdge_next h
    split <;> rfl
  | wdtReset =>
    obtain ⟨_, rfl⟩ := execWdtReset_next h
    rfl
  | txDone | seqInit | seqWake | seqRearm | irqHandle =>
    cases h
    rfl

/-- Settles O51: `exec_cfg`, and the form of the decoder under each of its writes. -/
theorem configurationIsNeverWritten : Obligations.ConfigurationIsNeverWritten := by
  unfold Obligations.ConfigurationIsNeverWritten
  intro i s t h
  obtain ⟨hdec, -⟩ := exec_writes h
  exact ⟨exec_cfg h, hdec.variant⟩

/-! ### The operation of a turn (R70, R200) -/

/-- The watchdog's enabling condition (R233) does not see the schedule. -/
@[simp] theorem afterTurn_wdtEnabled (s : State) : s.afterTurn.wdtEnabled = s.wdtEnabled := by
  simp [State.wdtEnabled]

/-- A turn whose trigger holds performs its operation. -/
theorem step_of_op {s : State} {i : Instr} (h : s.afterTurn.op s.turn = some i) : step s = exec i s.afterTurn := by
  simp only [step, h]

/-- A turn whose trigger does not hold passes. -/
theorem step_of_op_none {s : State} (h : s.afterTurn.op s.turn = none) :
    step s = .next (s.afterTurn.passTurn s.turn) := by
  simp only [step, h]

/-- The head of the schedule moves, and is taken off it. -/
theorem turn_scheduled {s : State} {u : Turn} {ts : List Turn} (h : s.env.turns = u :: ts) :
    s.turn = u ∧ s.afterTurn = { s with env := { s.env with turns := ts } } := by
  simp only [State.turn, State.afterTurn, h, and_self]

/-- Past the end of the schedule a free value says who moves. -/
theorem turn_free {s : State} (h : s.env.turns = []) :
    s.turn = Config.freeTurn s.env.draws ∧
      s.afterTurn = { s with env := { s.env with draws := s.env.draws + 1 } } := by
  simp only [State.turn, State.afterTurn, h, and_self]

/-- While a transmission runs the main thread waits (R209). -/
theorem step_main_busy {s : State} (ht : s.turn = .main) (hb : s.tx.busy = true) : step s = .next s.afterTurn := by
  rw [step_of_op_none (by simp [ht, State.op, hb]), ht]
  rfl

theorem step_edge {s : State} {l : Line} (ht : s.turn = .edge l) : step s = exec (.irqEdge l) s.afterTurn :=
  step_of_op (by rw [ht]; rfl)

/-- The handler runs when a line is pending (R229). -/
theorem step_irq {s : State} (ht : s.turn = .irq) :
    step s = if s.ifg = noLines then .next s.afterTurn else exec .irqHandle s.afterTurn := by
  split
  next hp =>
    rw [step_of_op_none (by simp [ht, State.op, hp]), ht]
    rfl
  next hp => exact step_of_op (by simp [ht, State.op, hp])

/-- The watchdog fires where it is enabled (R233). -/
theorem step_watchdog {s : State} (ht : s.turn = .watchdog) :
    step s = if s.wdtEnabled then exec .wdtReset s.afterTurn else .next s.afterTurn := by
  split
  next he => exact step_of_op (by simp [ht, State.op, he])
  next he =>
    rw [step_of_op_none (by simp [ht, State.op, he]), ht]
    rfl

/-- The bit clock of an idle transmitter does nothing. -/
theorem step_bitClock_idle {s : State} (ht : s.turn = .bitClock) (hb : s.tx.busy = false) :
    step s = .next s.afterTurn := by
  rw [step_of_op_none (by simp [ht, State.op, hb]), ht]
  simp [State.passTurn, hb]

/-- The bit clock ticks while a frame is on the line (R163). -/
theorem step_bitClock_frame {s : State} (ht : s.turn = .bitClock) (hb : s.tx.busy = true) (hc : s.tx.cnt ≠ 0) :
    step s = exec .txTick s.afterTurn :=
  step_of_op (by simpa [ht, State.op, hb] using hc)

/-- After a frame and its gap the bit clock loads the next character (R162). -/
theorem step_bitClock_load {s : State} (ht : s.turn = .bitClock) (hb : s.tx.busy = true) (hc : s.tx.cnt = 0)
    (hg : s.gap = 0) : step s = exec .txLoad s.afterTurn :=
  step_of_op (by simp [ht, State.op, hb, hc, hg])

/-- In the gap before a character the bit clock takes one bit time off it (D13). -/
theorem step_bitClock_gap {s : State} (ht : s.turn = .bitClock) (hb : s.tx.busy = true) (hc : s.tx.cnt = 0)
    (hg : s.gap ≠ 0) : step s = .next { s.afterTurn with gap := s.gap - 1 } := by
  rw [step_of_op_none (by simp [ht, State.op, hb, hc, hg]), ht,
    State.passTurn_bitClock (by simpa using hb) (by simpa using hc), State.afterTurn_gap]

/-- Settles O26: one lemma per kind of turn, above. -/
theorem stepRunsTheOperationOfItsTurn : Obligations.StepRunsTheOperationOfItsTurn := by
  unfold Obligations.StepRunsTheOperationOfItsTurn
  intro s
  refine ⟨fun _ _ => turn_scheduled, turn_free, fun ht => ⟨fun hb => ?_, step_main_busy ht⟩, fun _ => step_edge,
    step_irq, fun ht => ?_, step_watchdog⟩
  · rw [step_main ht hb]
    cases s.seq.pos <;> rfl
  · split
    next hb => exact step_bitClock_idle ht hb
    next hb =>
      have hb : s.tx.busy = true := by simpa using hb
      split
      next hc => exact step_bitClock_frame ht hb hc
      next hc =>
        have hc : s.tx.cnt = 0 := not_not.1 hc
        split
        next hg => exact step_bitClock_load ht hb hc hg
        next hg => exact step_bitClock_gap ht hb hc hg

end Sys2Proof.Proofs

/-! Encoding (30_encoding.md): the rows of the operation map (R100), words and their reserved bits (R104), the default layouts
(R81, R83), and what an operation answers in a phase or a family that is not its own. -/

namespace Sys2Proof.Proofs
open Sys2Proof.Machine Sys2Proof.Laws

/-! ### The class rows of the table (R100) -/

/-- The table's row of a V6 class. A phase is a digit count or `IDLE`; the mask is `MUP` and the expected strobe. -/
def row6 (idle : BitVec 4) : Class6 → Row
  | .idleHold => ⟨.v6, [idle], 2 ^ Layout6.default.bit .mup, 2 ^ Layout6.default.bit .mup⟩
  | .sync => ⟨.v6, [idle], 2 ^ Layout6.default.bit .mup, 0⟩
  | .frozen => ⟨.v6, [6], 0, 0⟩
  | .abort => ⟨.v6, [0, 1, 2, 3, 4, 5], 2 ^ Layout6.default.bit .mup, 2 ^ Layout6.default.bit .mup⟩
  | .capture n => ⟨.v6, [BitVec.ofNat 4 n],
      2 ^ Layout6.default.bit .mup ||| 2 ^ Layout6.default.bit (strobe6 n), 2 ^ Layout6.default.bit (strobe6 n)⟩
  | .hold n => ⟨.v6, [BitVec.ofNat 4 n], 2 ^ Layout6.default.bit .mup ||| 2 ^ Layout6.default.bit (strobe6 n), 0⟩

/-- The table's row of a V4 class, as `row6`. -/
def row4 (idle : BitVec 4) : Class4 → Row
  | .idleHold => ⟨.v4, [idle], 2 ^ Layout4.default.bit .mup, 2 ^ Layout4.default.bit .mup⟩
  | .sync => ⟨.v4, [idle], 2 ^ Layout4.default.bit .mup, 0⟩
  | .frozen => ⟨.v4, [4], 0, 0⟩
  | .abort => ⟨.v4, [0, 1, 2, 3], 2 ^ Layout4.default.bit .mup, 2 ^ Layout4.default.bit .mup⟩
  | .capture k => ⟨.v4, [BitVec.ofNat 4 k],
      2 ^ Layout4.default.bit .mup ||| 2 ^ Layout4.default.bit (strobe4 k), 2 ^ Layout4.default.bit (strobe4 k)⟩
  | .hold k => ⟨.v4, [BitVec.ofNat 4 k], 2 ^ Layout4.default.bit .mup ||| 2 ^ Layout4.default.bit (strobe4 k), 0⟩

theorem tableRow_class6 (idle : BitVec 4) (k : Class6) (sin : Sin6) :
    tableRow idle (k.instr sin) = some (row6 idle k) := by
  cases k with
  | capture n => fin_cases n <;> rfl
  | hold n => fin_cases n <;> rfl
  | idleHold | sync | frozen | abort => rfl

theorem tableRow_class4 (idle : BitVec 4) (k : Class4) (sin : Sin4) :
    tableRow idle (k.instr sin) = some (row4 idle k) := by
  cases k with
  | capture n => fin_cases n <;> rfl
  | hold n => fin_cases n <;> rfl
  | idleHold | sync | frozen | abort => rfl

@[simp] theorem row6_variant (idle : BitVec 4) (k : Class6) : (row6 idle k).variant = .v6 := by
  cases k <;> rfl

@[simp] theorem row4_variant (idle : BitVec 4) (k : Class4) : (row4 idle k).variant = .v4 := by
  cases k <;> rfl

/-- The word of a class row is its sampled word (R9). -/
theorem encode_class6 (k : Class6) (sin : Sin6) : encode (k.instr sin) = some sin.word := by
  cases k with
  | capture n => fin_cases n <;> rfl
  | hold n => fin_cases n <;> rfl
  | idleHold | sync | frozen | abort => rfl

theorem encode_class4 (k : Class4) (sin : Sin4) : encode (k.instr sin) = some sin.word := by
  cases k with
  | capture n => fin_cases n <;> rfl
  | hold n => fin_cases n <;> rfl
  | idleHold | sync | frozen | abort => rfl

theorem wellFormed_class6 (c : Config) (k : Class6) (sin : Sin6) : (k.instr sin).wellFormed c = sin.fits c k := by
  cases k with
  | capture n => fin_cases n <;> rfl
  | hold n => fin_cases n <;> rfl
  | idleHold | sync | frozen | abort => rfl

theorem wellFormed_class4 (c : Config) (k : Class4) (sin : Sin4) : (k.instr sin).wellFormed c = sin.fits c k := by
  cases k with
  | capture n => fin_cases n <;> rfl
  | hold n => fin_cases n <;> rfl
  | idleHold | sync | frozen | abort => rfl

/-! ### A row's phases and its condition select its class (R100) -/

/-- A phase that is a digit count. -/
theorem mem_phase_ofNat {p : BitVec 4} {n : Nat} (hn : n < 16) : p ∈ [BitVec.ofNat 4 n] ↔ p.toNat = n := by
  rw [List.mem_singleton, ← BitVec.toNat_inj, BitVec.toNat_ofNat, Nat.mod_eq_of_lt hn]

/-- The phases of ABORT are the capturing ones. -/
theorem mem_abort6_phases {p : BitVec 4} : p ∈ [0, 1, 2, 3, 4, 5] ↔ p.toNat < 6 := by
  revert p; decide

theorem mem_abort4_phases {p : BitVec 4} : p ∈ [0, 1, 2, 3] ↔ p.toNat < 4 := by
  revert p; decide

/-- R100 as an equivalence: a V6 class is selected in the phases of its row, by the words that meet its condition. -/
theorem classify6_eq_some_iff {c : Config} (hi : 7 ≤ c.idle.toNat) {p : BitVec 4} {sin : Sin6} {k : Class6} :
    classify6 c p sin = some k ↔ p ∈ (row6 c.idle k).phases ∧ k.admits c sin = true := by
  have hsome := @classify6_some c p sin k
  cases k with
  | idleHold =>
    simp only [row6, Class6.admits, List.mem_singleton]
    exact ⟨hsome, by rintro ⟨rfl, hmup⟩; simp [classify6_idle, hmup]⟩
  | sync =>
    simp only [row6, Class6.admits, List.mem_singleton, Bool.not_eq_true']
    exact ⟨hsome, by rintro ⟨rfl, hmup⟩; simp [classify6_idle, hmup]⟩
  | frozen =>
    simp only [row6, Class6.admits, List.mem_singleton, and_true]
    exact ⟨hsome, by rintro rfl; exact classify6_complete hi sin⟩
  | abort =>
    simp only [row6, Class6.admits, mem_abort6_phases]
    exact ⟨hsome, fun ⟨hp, hmup⟩ => by simp [classify6_capturing hi sin ⟨p.toNat, hp⟩ rfl, hmup]⟩
  | capture n =>
    simp only [row6, Class6.admits, mem_phase_ofNat (show n.val < 16 by omega), Bool.and_eq_true, Bool.not_eq_true']
    exact ⟨hsome, fun ⟨hp, hmup, hs⟩ => by simp [classify6_capturing hi sin n hp, hmup, hs]⟩
  | hold n =>
    simp only [row6, Class6.admits, mem_phase_ofNat (show n.val < 16 by omega), Bool.and_eq_true, Bool.not_eq_true']
    exact ⟨hsome, fun ⟨hp, hmup, hs⟩ => by simp [classify6_capturing hi sin n hp, hmup, hs]⟩

theorem classify4_eq_some_iff {c : Config} (hi : 7 ≤ c.idle.toNat) {p : BitVec 4} {sin : Sin4} {k : Class4} :
    classify4 c p sin = some k ↔ p ∈ (row4 c.idle k).phases ∧ k.admits c sin = true := by
  have hsome := @classify4_some c p sin k
  cases k with
  | idleHold =>
    simp only [row4, Class4.admits, List.mem_singleton]
    exact ⟨hsome, by rintro ⟨rfl, hmup⟩; simp [classify4_idle, hmup]⟩
  | sync =>
    simp only [row4, Class4.admits, List.mem_singleton, Bool.not_eq_true']
    exact ⟨hsome, by rintro ⟨rfl, hmup⟩; simp [classify4_idle, hmup]⟩
  | frozen =>
    simp only [row4, Class4.admits, List.mem_singleton, and_true]
    exact ⟨hsome, by rintro rfl; exact classify4_complete hi sin⟩
  | abort =>
    simp only [row4, Class4.admits, mem_abort4_phases]
    exact ⟨hsome, fun ⟨hp, hmup⟩ => by simp [classify4_capturing hi sin ⟨p.toNat, hp⟩ rfl, hmup]⟩
  | capture n =>
    simp only [row4, Class4.admits, mem_phase_ofNat (show n.val < 16 by omega), Bool.and_eq_true, Bool.not_eq_true']
    exact ⟨hsome, fun ⟨hp, hmup, hs⟩ => by simp [classify4_capturing hi sin n hp, hmup, hs]⟩
  | hold n =>
    simp only [row4, Class4.admits, mem_phase_ofNat (show n.val < 16 by omega), Bool.and_eq_true, Bool.not_eq_true']
    exact ⟨hsome, fun ⟨hp, hmup, hs⟩ => by simp [classify4_capturing hi sin n hp, hmup, hs]⟩

/-! ### Decoding gives a class row back (R100, R104) -/

/-- A well-formed V6 class word decodes, in a phase of its row, to the class operation. -/
theorem decode6_of_fits {c : Config} (hi : 7 ≤ c.idle.toNat) {p : BitVec 4} {k : Class6} {sin : Sin6}
    (hfits : sin.fits c k = true) (hp : p ∈ (row6 c.idle k).phases) : decode6 c p sin.word = .ok (k.instr sin) := by
  obtain ⟨hclean, hadmits⟩ := fits6_admits hfits
  exact decode6_eq_ok.2 ⟨k, (classify6_eq_some_iff hi).2 ⟨hp, hadmits⟩, congrArg k.instr hclean⟩

theorem decode4_of_fits {c : Config} (hi : 7 ≤ c.idle.toNat) {p : BitVec 4} {k : Class4} {sin : Sin4}
    (hfits : sin.fits c k = true) (hp : p ∈ (row4 c.idle k).phases) : decode4 c p sin.word = .ok (k.instr sin) := by
  obtain ⟨hclean, hadmits⟩ := fits4_admits hfits
  exact decode4_eq_ok.2 ⟨k, (classify4_eq_some_iff hi).2 ⟨hp, hadmits⟩, congrArg k.instr hclean⟩

/-- Settles O21: a class row is decoded back by `decode6_of_fits` or `decode4_of_fits`, and no other operation has a word. -/
theorem decodeEncodeAgree : Obligations.DecodeEncodeAgree := by
  unfold Obligations.DecodeEncodeAgree
  intro c i w r p hi hwf henc hrow hp
  induction i using instr_cases with
  | class6 k sin =>
    rw [encode_class6] at henc
    rw [tableRow_class6] at hrow
    rw [wellFormed_class6] at hwf
    cases henc
    cases hrow
    rw [row6_variant]
    exact decode6_of_fits hi hwf hp
  | class4 k sin =>
    rw [encode_class4] at henc
    rw [tableRow_class4] at hrow
    rw [wellFormed_class4] at hwf
    cases henc
    cases hrow
    rw [row4_variant]
    exact decode4_of_fits hi hwf hp
  | _ => cases henc

/-! ### Words under the default layouts (R81, R83, R85) -/

/-- A line of the default V6 layout is read at its bit: each lies inside the 16 bits of the word. -/
theorem asserted6_default (w : Word) (l : Line6) :
    Sin6.asserted Config.default ⟨w⟩ l = w.testBit (Layout6.default.bit l) := by
  cases l <;> rfl

theorem asserted4_default (w : Word) (l : Line4) :
    Sin4.asserted Config.default ⟨w⟩ l = w.testBit (Layout4.default.bit l) := by
  cases l <;> rfl

/-- A word meets the mask and match of a V6 row exactly when it meets the condition of the row's class. -/
theorem and_row6_mask (idle : BitVec 4) (k : Class6) (w : Word) :
    w &&& (row6 idle k).mask = (row6 idle k).pattern ↔ k.admits Config.default ⟨w⟩ = true := by
  cases k <;> simp only [row6, Class6.admits, asserted6_default, Bool.and_eq_true, Bool.not_eq_true', Nat.and_zero]
  case idleHold | sync | abort => exact and_oneBit rfl (by decide)
  case capture n | hold n => exact and_twoBits rfl (by revert n; decide)

theorem and_row4_mask (idle : BitVec 4) (k : Class4) (w : Word) :
    w &&& (row4 idle k).mask = (row4 idle k).pattern ↔ k.admits Config.default ⟨w⟩ = true := by
  cases k <;> simp only [row4, Class4.admits, asserted4_default, Bool.and_eq_true, Bool.not_eq_true', Nat.and_zero]
  case idleHold | sync | abort => exact and_oneBit rfl (by decide)
  case capture n | hold n => exact and_twoBits rfl (by revert n; decide)

/-- Settles O22: `classify6_eq_some_iff`, with the condition on the word written as mask and match; `classify6_total`. -/
theorem tableRowsSelectTheClass : Obligations.TableRowsSelectTheClass := by
  unfold Obligations.TableRowsSelectTheClass
  have hi : 7 ≤ Config.default.idle.toNat := by decide
  refine ⟨fun c p w r hr => ?_, fun c p w r hr => ?_, fun p w => classify6_total Config.default p _,
    fun p w => classify4_total Config.default p _⟩
  · rw [tableRow_class6] at hr
    cases hr
    rw [classify6_eq_some_iff hi, and_row6_mask]
  · rw [tableRow_class4] at hr
    cases hr
    rw [classify4_eq_some_iff hi, and_row4_mask]

/-- Four bits, highest first, are the number's low nibble (R85). -/
theorem ofBool_testBits (w : Nat) :
    BitVec.ofBool (w.testBit 3) ++ BitVec.ofBool (w.testBit 2) ++ BitVec.ofBool (w.testBit 1) ++
      BitVec.ofBool (w.testBit 0) = BitVec.ofNat 4 w := by
  have hbits : ∀ v : BitVec 4, BitVec.ofBool (v.getLsbD 3) ++ BitVec.ofBool (v.getLsbD 2) ++
      BitVec.ofBool (v.getLsbD 1) ++ BitVec.ofBool (v.getLsbD 0) = v := by decide
  simpa only [BitVec.getLsbD_ofNat, Nat.reduceLT, decide_true, Bool.true_and] using hbits (BitVec.ofNat 4 w)

theorem digit6_default (w : Word) : digit6 Config.default ⟨w⟩ = BitVec.ofNat 4 w := by
  simp only [digit6, asserted6_default]
  exact ofBool_testBits w

theorem digit4_default (w : Word) : digit4 Config.default ⟨w⟩ = BitVec.ofNat 4 w := by
  simp only [digit4, asserted4_default]
  exact ofBool_testBits w

theorem default_mask6 : Config.default.mask6 = 0x7FFF := by decide

theorem default_mask4 : Config.default.mask4 = 0x01FF := by decide

/-- Settles O24: each line is read at its bit of the default layout, and the digit is the low nibble. -/
theorem defaultLayoutFields : Obligations.DefaultLayoutFields := by
  unfold Obligations.DefaultLayoutFields
  have strobe_bit : ∀ n : Fin 6, Layout6.default.bit (strobe6 n) = 4 + n.val := by decide
  refine ⟨fun w => ⟨digit6_default w, fun n => ?_, asserted6_default w .dp, asserted6_default w .mup,
      asserted6_default w .ovf, asserted6_default w .rng, asserted6_default w .nml, by rw [default_mask6]⟩,
    fun w => ⟨digit4_default w, asserted4_default w .dg1, asserted4_default w .dg2, asserted4_default w .dg3,
      asserted4_default w .dg4, asserted4_default w .mup, by rw [default_mask4]⟩⟩
  rw [asserted6_default, strobe_bit]

/-- Settles O25: the decoder run on each of the eleven words. -/
theorem scenarioWordsDecode : Obligations.ScenarioWordsDecode := by
  unfold Obligations.ScenarioWordsDecode
  exact ⟨rfl, rfl, rfl, rfl, rfl, rfl, rfl, rfl, rfl, rfl, rfl⟩

/-! ### The other family (R107, log 9) -/

theorem onClass6_otherVariant {s : State} {d : Dec4} (hd : s.dec = .v4 d) (c : Class6) (sin : Sin6) (f : Dec6 → Dec6) :
    onClass6 c sin s f = .refused .otherVariant := by
  simp only [onClass6, hd]

theorem onClass4_otherVariant {s : State} {d : Dec6} (hd : s.dec = .v6 d) (c : Class4) (sin : Sin4) (f : Dec4 → Dec4) :
    onClass4 c sin s f = .refused .otherVariant := by
  simp only [onClass4, hd]

theorem exec_dec6Step_otherVariant {s : State} {d : Dec4} (hd : s.dec = .v4 d) (sin : Sin6) :
    exec (.dec6Step sin) s = .refused .otherVariant := by
  simp only [exec, execDec6Step, hd]

theorem exec_dec4Step_otherVariant {s : State} {d : Dec6} (hd : s.dec = .v6 d) (sin : Sin4) :
    exec (.dec4Step sin) s = .refused .otherVariant := by
  simp only [exec, execDec4Step, hd]

/-- Settles O13: every operation of a family looks at the form of the decoder first. -/
theorem otherFamilyIsRefused : Obligations.OtherFamilyIsRefused := by
  unfold Obligations.OtherFamilyIsRefused
  refine ⟨fun s d sin c r p hd => ⟨?_, exec_dec6Step_otherVariant hd sin, ?_, ?_⟩,
    fun s d sin c r hd => ⟨?_, exec_dec4Step_otherVariant hd sin, ?_, ?_⟩⟩
  · rw [exec_class6, onClass6_otherVariant hd]
  · simp only [exec, execDec6Reset, hd]
  · simp only [exec, execFmt6, hd]
  · rw [exec_class4, onClass4_otherVariant hd]
  · simp only [exec, execDec4Reset, hd]
  · simp only [exec, execFmt4, hd]

/-! ### Reserved phases and classes that are not selected (R105, log 10) -/

theorem exec_dec6Step_reserved {s : State} {d : Dec6} {sin : Sin6} (hd : s.dec = .v6 d)
    (hc : classify6 s.cfg d.nextDigit sin = none) : exec (.dec6Step sin) s = .refused .reservedPhase := by
  simp only [exec, execDec6Step, hd, hc]

theorem exec_dec4Step_reserved {s : State} {d : Dec4} {sin : Sin4} (hd : s.dec = .v4 d)
    (hc : classify4 s.cfg d.nextDigit sin = none) : exec (.dec4Step sin) s = .refused .reservedPhase := by
  simp only [exec, execDec4Step, hd, hc]

/-- Settles O11: a reserved phase selects no class, so the step is refused, and `SEQ.STEP` with it (R206). -/
theorem reservedPhaseIsRefused : Obligations.ReservedPhaseIsRefused := by
  unfold Obligations.ReservedPhaseIsRefused
  refine ⟨fun s d sin hd hp hidle => ?_, fun s d sin hd hp hidle => ?_⟩
  · have hstep (x : Sin6) : exec (.dec6Step x) s = .refused .reservedPhase :=
      exec_dec6Step_reserved hd (classify6_reserved x hp hidle)
    exact ⟨hstep sin, by rw [exec_seqStep_v6 hd, hstep, onNext_refused]⟩
  · have hstep (x : Sin4) : exec (.dec4Step x) s = .refused .reservedPhase :=
      exec_dec4Step_reserved hd (classify4_reserved x hp hidle)
    exact ⟨hstep sin, by rw [exec_seqStep_v4 hd, hstep, onNext_refused]⟩

/-- Settles O12: a class row is `onClass6` or `onClass4`, which compares its class with the one that R100 selects. -/
theorem unselectedClassIsRefused : Obligations.UnselectedClassIsRefused := by
  unfold Obligations.UnselectedClassIsRefused
  refine ⟨fun s d sin c c' hd hc hne => ?_, fun s d sin c c' hd hc hne => ?_⟩
  · simp only [exec_class6, onClass6, hd, hc, if_neg hne.symm]
  · simp only [exec_class4, onClass4, hd, hc, if_neg hne.symm]

/-! ### Reserved bits (R104) -/

@[simp] theorem sin6_mk_word (sin : Sin6) : Sin6.mk sin.word = sin := rfl

@[simp] theorem sin4_mk_word (sin : Sin4) : Sin4.mk sin.word = sin := rfl

@[simp] theorem clean6_clean (c : Config) (sin : Sin6) : (sin.clean c).clean c = sin.clean c := by
  simp [Sin6.clean]

@[simp] theorem clean4_clean (c : Config) (sin : Sin4) : (sin.clean c).clean c = sin.clean c := by
  simp [Sin4.clean]

/-- The decoder does not see the reserved bits. -/
theorem decode6_clean (c : Config) (p : BitVec 4) (sin : Sin6) :
    decode6 c p (sin.clean c).word = decode6 c p sin.word := by
  simp only [decode6, sin6_mk_word, classify6_clean, clean6_clean]

theorem decode4_clean (c : Config) (p : BitVec 4) (sin : Sin4) :
    decode4 c p (sin.clean c).word = decode4 c p sin.word := by
  simp only [decode4, sin4_mk_word, classify4_clean, clean4_clean]

/-- A decoder step does not see the reserved bits, whether it performs a class or is refused. -/
theorem exec_dec6Step_clean (sin : Sin6) (s : State) : exec (.dec6Step (sin.clean s.cfg)) s = exec (.dec6Step sin) s := by
  cases hd : s.dec with
  | v4 d => rw [exec_dec6Step_otherVariant hd, exec_dec6Step_otherVariant hd]
  | v6 d =>
    have hclean := classify6_clean s.cfg d.nextDigit sin
    cases hc : classify6 s.cfg d.nextDigit sin with
    | none => rw [exec_dec6Step_reserved hd (hclean.trans hc), exec_dec6Step_reserved hd hc]
    | some k => rw [exec_dec6Step_class hd (hclean.trans hc), exec_dec6Step_class hd hc, exec_class6_clean]

theorem exec_dec4Step_clean (sin : Sin4) (s : State) : exec (.dec4Step (sin.clean s.cfg)) s = exec (.dec4Step sin) s := by
  cases hd : s.dec with
  | v6 d => rw [exec_dec4Step_otherVariant hd, exec_dec4Step_otherVariant hd]
  | v4 d =>
    have hclean := classify4_clean s.cfg d.nextDigit sin
    cases hc : classify4 s.cfg d.nextDigit sin with
    | none => rw [exec_dec4Step_reserved hd (hclean.trans hc), exec_dec4Step_reserved hd hc]
    | some k => rw [exec_dec4Step_class hd (hclean.trans hc), exec_dec4Step_class hd hc, exec_class4_clean]

/-- `FMT6` reads its auxiliary word through lines only. -/
theorem exec_fmt6_clean (r : BitVec 24) (p : BitVec 3) (aux : Sin6) (s : State) :
    exec (.fmt6 r p (aux.clean s.cfg)) s = exec (.fmt6 r p aux) s := by
  simp only [exec, execFmt6, text6, Sin6.clean_asserted]

/-- The sampler gives no reserved bit (R62). -/
@[simp] theorem sampleWord_and_sinMask (s : State) : s.sampleWord &&& s.sinMask = s.sampleWord := by
  rw [State.sampleWord, Nat.and_assoc, Nat.and_self]

/-- Settles O23: no reader sees the reserved bits, by one lemma each above; the sampler masks them. -/
theorem reservedBitsAreIgnored : Obligations.ReservedBitsAreIgnored := by
  unfold Obligations.ReservedBitsAreIgnored
  refine ⟨fun c p w => ⟨(decode6_clean c p ⟨w⟩).symm, (decode4_clean c p ⟨w⟩).symm⟩,
    fun s w => ⟨(exec_dec6Step_clean ⟨w⟩ s).symm, (exec_dec4Step_clean ⟨w⟩ s).symm,
      fun k => (exec_class6_clean k ⟨w⟩ s).symm, fun k => (exec_class4_clean k ⟨w⟩ s).symm,
      fun r p => (exec_fmt6_clean r p ⟨w⟩ s).symm⟩,
    fun s t h => ?_, fun s t h => ?_, default_mask6, default_mask4⟩
  · cases h
    exact sampleWord_and_sinMask s
  · cases h
    exact sampleWord_and_sinMask s

end Sys2Proof.Proofs


/-! The 6-digit decoder (40_decoder_v6.md): what each class writes, the dispatch, and the laws of its steps. -/

namespace Sys2Proof.Proofs
open Sys2Proof.Machine

/-! ### The classes one by one (R121 to R127) -/

/-- A class row that R100 selects has the writes of its class. -/
theorem exec_class6_selected {s : State} {d : Dec6} {sin : Sin6} {c : Class6} (hd : s.dec = .v6 d)
    (hc : classify6 s.cfg d.nextDigit sin = some c) :
    exec (c.instr sin) s = .next { s with dec := .v6 (effect6 s.cfg sin c d) } := by
  rw [exec_class6, onClass6_selected _ hd hc]

/-- A class row that R100 selects and whose writes are what the decoder holds changes nothing. -/
theorem exec_class6_unchanged {s : State} {d : Dec6} {sin : Sin6} {c : Class6} (hd : s.dec = .v6 d)
    (hc : classify6 s.cfg d.nextDigit sin = some c) (he : effect6 s.cfg sin c d = d) :
    exec (c.instr sin) s = .next s := by
  rw [exec_class6_selected hd hc, he, ← hd]

/-- The word and the phase that make R100 select a hold. -/
theorem classify6_hold {c : Config} (hi : 7 ≤ c.idle.toNat) {p : BitVec 4} {sin : Sin6} (n : Fin 6)
    (hp : p.toNat = n.val) (hmup : sin.asserted c .mup = false) (hs : sin.asserted c (strobe6 n) = false) :
    classify6 c p sin = some (.hold n) := by
  simp [classify6_capturing hi sin n hp, hmup, hs]

theorem classify6_capture {c : Config} (hi : 7 ≤ c.idle.toNat) {p : BitVec 4} {sin : Sin6} (n : Fin 6)
    (hp : p.toNat = n.val) (hmup : sin.asserted c .mup = false) (hs : sin.asserted c (strobe6 n) = true) :
    classify6 c p sin = some (.capture n) := by
  simp [classify6_capturing hi sin n hp, hmup, hs]

theorem classify6_abort {c : Config} (hi : 7 ≤ c.idle.toNat) {p : BitVec 4} {sin : Sin6} (hp : p.toNat < 6)
    (hmup : sin.asserted c .mup = true) : classify6 c p sin = some .abort := by
  simp [classify6_capturing hi sin ⟨p.toNat, hp⟩ rfl, hmup]

theorem classify4_abort {c : Config} (hi : 7 ≤ c.idle.toNat) {p : BitVec 4} {sin : Sin4} (hp : p.toNat < 4)
    (hmup : sin.asserted c .mup = true) : classify4 c p sin = some .abort := by
  simp [classify4_capturing hi sin ⟨p.toNat, hp⟩ rfl, hmup]

/-- Settles O1: R100 selects each of these classes, and none of them writes. -/
theorem dec6HoldingClassesWriteNothing : Obligations.Dec6HoldingClassesWriteNothing := by
  unfold Obligations.Dec6HoldingClassesWriteNothing
  intro s d sin hd hi
  have hhold (n : Fin 6) (hmup : sin.asserted s.cfg .mup = false) (hp : d.nextDigit = BitVec.ofNat 4 n.val)
      (hs : sin.asserted s.cfg (strobe6 n) = false) : exec ((Class6.hold n).instr sin) s = .next s := by
    have hpn : d.nextDigit.toNat = n.val := by rw [hp, BitVec.toNat_ofNat]; omega
    exact exec_class6_unchanged hd (classify6_hold hi n hpn hmup hs) rfl
  refine ⟨fun hp hmup => ?_, fun hp => ?_, fun hmup =>
    ⟨hhold 0 hmup, hhold 1 hmup, hhold 2 hmup, hhold 3 hmup, hhold 4 hmup, hhold 5 hmup⟩⟩
  · exact exec_class6_unchanged (c := .idleHold) hd (by rw [hp, classify6_idle, hmup]; rfl) rfl
  · exact exec_class6_unchanged (c := .frozen) hd (by rw [hp, classify6_complete hi]) rfl

/-- Settles O2: R100 selects SYNC in `Idle` without `MUP`. -/
theorem dec6SyncClearsAndExpectsFirstDigit : Obligations.Dec6SyncClearsAndExpectsFirstDigit := by
  unfold Obligations.Dec6SyncClearsAndExpectsFirstDigit
  intro s d sin hd hp hmup
  exact exec_class6_selected (c := .sync) hd (by rw [hp, classify6_idle, hmup]; rfl)

/-- Settles O3: R100 selects ABORT in a capturing phase with `MUP`, before it looks at a strobe. -/
theorem dec6AbortClearsBackToIdle : Obligations.Dec6AbortClearsBackToIdle := by
  unfold Obligations.Dec6AbortClearsBackToIdle
  intro s d sin hd hi hp hmup
  exact exec_class6_selected (c := .abort) hd (classify6_abort hi (by omega) hmup)

/-- The strobes in the order of the digits (R100). -/
theorem get_strobes6 (n : Fin 6) : [Line6.s1, .s2, .s3, .s4, .s5, .s6].get n = strobe6 n := by
  fin_cases n <;> rfl

theorem get_captures6 (sin : Sin6) (n : Fin 6) :
    [Instr.dec6Capture1 sin, .dec6Capture2 sin, .dec6Capture3 sin, .dec6Capture4 sin, .dec6Capture5 sin,
      .dec6Capture6 sin].get n = (Class6.capture n).instr sin := by
  fin_cases n <;> rfl

theorem get_holds6 (sin : Sin6) (n : Fin 6) :
    [Instr.dec6Hold1 sin, .dec6Hold2 sin, .dec6Hold3 sin, .dec6Hold4 sin, .dec6Hold5 sin, .dec6Hold6 sin].get n =
      (Class6.hold n).instr sin := by
  fin_cases n <;> rfl

/-- The writes of a capture into a register that holds all six digits (R125, D5). -/
theorem capture6_eq {c : Config} (hw : 24 ≤ c.wReading6) (n : Fin 6) (sin : Sin6) (d : Dec6) :
    Dec6.capture c n sin d =
      { reading := (d.reading <<< 4) ||| (digit6 c sin).setWidth 24
        dp := if sin.asserted c .dp then BitVec.ofNat 3 (7 - (n.val + 1)) else d.dp
        nextDigit := BitVec.ofNat 4 (n.val + 1) } := by
  have hindex : decimalIndex n = BitVec.ofNat 3 (7 - (n.val + 1)) := congrArg (BitVec.ofNat 3) (by omega)
  rw [Dec6.capture, inWidth_eq _ hw, hindex]

/-- Settles O4: R100 selects CAPTURE n + 1, whose writes are `capture6_eq`. -/
theorem dec6CaptureShiftsDigitIn : Obligations.Dec6CaptureShiftsDigitIn := by
  unfold Obligations.Dec6CaptureShiftsDigitIn
  intro n s d sin hd hi hw hp hmup hs
  rw [get_strobes6] at hs
  have hpn : d.nextDigit.toNat = n.val := by rw [hp, BitVec.toNat_ofNat]; omega
  rw [get_captures6, exec_class6_selected hd (classify6_capture hi n hpn hmup hs), effect6, capture6_eq hw]

/-- Settles O6: a reset looks at the family only. -/
theorem decoderResetFromEveryPhase : Obligations.DecoderResetFromEveryPhase := by
  unfold Obligations.DecoderResetFromEveryPhase
  refine ⟨fun s d hd => ?_, fun s d hd => ?_⟩
  · simp only [exec, execDec6Reset, hd, Decoder.cleared]
  · simp only [exec, execDec4Reset, hd, Decoder.cleared]

/-! ### The dispatch (R128) -/

/-- Settles O5: the branches of R100, in each of which the step is the class operation named there. -/
theorem dec6StepPerformsExactlyOneClass : Obligations.Dec6StepPerformsExactlyOneClass := by
  unfold Obligations.Dec6StepPerformsExactlyOneClass
  intro s d sin hd
  have hclass (c : Class6) (hc : classify6 s.cfg d.nextDigit sin = some c) :
      exec (.dec6Step sin) s = exec (c.instr sin) s := exec_dec6Step_class hd hc
  refine ⟨?_, fun hp => ?_⟩
  · simp only [get_strobes6, get_captures6, get_holds6]
    split
    next hidle =>
      split
      next hmup => exact hclass .idleHold (by simp [classify6, hidle, hmup])
      next hmup => exact hclass .sync (by simp [classify6, hidle, hmup])
    next hidle =>
      split
      next hdone => exact hclass .frozen (by rw [classify6, if_neg hidle, if_pos hdone])
      next hdone =>
        split
        next hlt =>
          split
          next hmup => exact hclass .abort (by
            rw [classify6, if_neg hidle, if_neg hdone, dif_pos hlt, if_pos hmup])
          next hmup =>
            split
            next hs => exact hclass (.capture ⟨_, hlt⟩) (by
              rw [classify6, if_neg hidle, if_neg hdone, dif_pos hlt, if_neg hmup, if_pos hs])
            next hs => exact hclass (.hold ⟨_, hlt⟩) (by
              rw [classify6, if_neg hidle, if_neg hdone, dif_pos hlt, if_neg hmup, if_neg hs])
        next hlt => exact exec_dec6Step_reserved hd (by
          rw [classify6, if_neg hidle, if_neg hdone, dif_neg hlt])
  · obtain ⟨c, hc⟩ := classify6_total s.cfg d.nextDigit sin hp
    exact ⟨_, exec_dec6Step hd hc⟩

/-! ### Where a step leaves the phase (R129) -/

/-- Each V6 class moves the phase by the rules of R129. -/
theorem effect6_nextDigit {cfg : Config} {sin : Sin6} {c : Class6} {d : Dec6}
    (hc : classify6 cfg d.nextDigit sin = some c) :
    (effect6 cfg sin c d).nextDigit = d.nextDigit ∨
    (d.nextDigit = cfg.idle ∧ (effect6 cfg sin c d).nextDigit = 0) ∨
    (d.nextDigit.toNat < 6 ∧ (effect6 cfg sin c d).nextDigit.toNat = d.nextDigit.toNat + 1) ∨
    (d.nextDigit.toNat < 6 ∧ (effect6 cfg sin c d).nextDigit = cfg.idle) := by
  have hs := classify6_some hc
  cases c with
  | idleHold | frozen | hold n => exact .inl rfl
  | sync => exact .inr (.inl ⟨hs.1, rfl⟩)
  | abort => exact .inr (.inr (.inr ⟨hs.1, rfl⟩))
  | capture n =>
    have hn : (BitVec.ofNat 4 (n.val + 1)).toNat = n.val + 1 := by rw [BitVec.toNat_ofNat]; omega
    exact .inr (.inr (.inl ⟨hs.1 ▸ n.isLt, by rw [hs.1]; exact hn⟩))

theorem effect4_nextDigit {cfg : Config} {sin : Sin4} {c : Class4} {d : Dec4}
    (hc : classify4 cfg d.nextDigit sin = some c) :
    (effect4 cfg sin c d).nextDigit = d.nextDigit ∨
    (d.nextDigit = cfg.idle ∧ (effect4 cfg sin c d).nextDigit = 0) ∨
    (d.nextDigit.toNat < 4 ∧ (effect4 cfg sin c d).nextDigit.toNat = d.nextDigit.toNat + 1) ∨
    (d.nextDigit.toNat < 4 ∧ (effect4 cfg sin c d).nextDigit = cfg.idle) := by
  have hs := classify4_some hc
  cases c with
  | idleHold | frozen | hold n => exact .inl rfl
  | sync => exact .inr (.inl ⟨hs.1, rfl⟩)
  | abort => exact .inr (.inr (.inr ⟨hs.1, rfl⟩))
  | capture n =>
    have hn : (BitVec.ofNat 4 (n.val + 1)).toNat = n.val + 1 := by rw [BitVec.toNat_ofNat]; omega
    exact .inr (.inr (.inl ⟨hs.1 ▸ n.isLt, by rw [hs.1]; exact hn⟩))

/-- Settles O19: by what the operation writes of the decoder, nothing, a class, or a reset. -/
theorem nextDigitMovesOnlyByTheRules : Obligations.NextDigitMovesOnlyByTheRules := by
  unfold Obligations.NextDigitMovesOnlyByTheRules
  intro i s t h
  cases (exec_writes h).1 with
  | kept ht => exact .inl (by rw [ht])
  | class6 hd hk ht =>
    have := effect6_nextDigit hk
    simp only [hd, ht, Decoder.nextDigit, Decoder.capturing, decide_eq_true_eq]
    tauto
  | class4 hd hk ht =>
    have := effect4_nextDigit hk
    simp only [hd, ht, Decoder.nextDigit, Decoder.capturing, decide_eq_true_eq]
    tauto
  | cleared hi ht => exact .inr (.inr (.inr (.inr ⟨hi, by rw [ht, Decoder.cleared_nextDigit]⟩)))

/-! ### `MUP` before completion (R131, R151) -/

/-- A phase below the completion value, from one at most it. -/
theorem toNat_lt_of_ne {p : BitVec 4} {n : Nat} (hn : n < 16) (hle : p.toNat ≤ n) (hne : p ≠ BitVec.ofNat 4 n) :
    p.toNat < n := by
  refine Nat.lt_of_le_of_ne hle fun h => hne (BitVec.eq_of_toNat_eq ?_)
  rw [h, BitVec.toNat_ofNat, Nat.mod_eq_of_lt hn]

/-- Settles O16: ABORT in a capturing phase; in `Idle` a hold, where a reachable decoder is already in its initial state. -/
theorem updateLineAbortsIncompleteReading : Obligations.UpdateLineAbortsIncompleteReading := by
  unfold Obligations.UpdateLineAbortsIncompleteReading
  refine ⟨fun s d sin hd hi hr hne hmup => ?_, fun s d sin hd hi hr hne hmup => ?_⟩
  · obtain ⟨hidle, hreading, hdp⟩ | ⟨hle, -, -⟩ := hr
    · have hc : classify6 s.cfg d.nextDigit sin = some .idleHold := by rw [hidle, classify6_idle, hmup]; rfl
      rw [exec_dec6Step hd hc, ← hreading, ← hdp, ← hidle]
      rfl
    · exact exec_dec6Step hd (classify6_abort hi (toNat_lt_of_ne (by decide) hle hne) hmup)
  · obtain ⟨hdp, ⟨hidle, hreading⟩ | ⟨hle, -⟩⟩ := hr
    · have hc : classify4 s.cfg d.nextDigit sin = some .idleHold := by rw [hidle, classify4_idle, hmup]; rfl
      rw [exec_dec4Step hd hc, ← hreading, ← hdp, ← hidle]
      rfl
    · exact exec_dec4Step hd (classify4_abort hi (toNat_lt_of_ne (by decide) hle hne) hmup)

/-! ### A word seen twice (R130) -/

/-- A step that sees `MUP` leaves no capturing phase; one that does not see it leaves a digit count. -/
theorem effect6_phase_of_mup {cfg : Config} (hi : 7 ≤ cfg.idle.toNat) {sin : Sin6} {c : Class6} {d : Dec6}
    (hc : classify6 cfg d.nextDigit sin = some c) :
    if sin.asserted cfg .mup then 6 ≤ (effect6 cfg sin c d).nextDigit.toNat
    else (effect6 cfg sin c d).nextDigit.toNat ≤ 6 := by
  have hs := classify6_some hc
  cases c with
  | idleHold =>
    obtain ⟨hidle, hmup⟩ := hs
    simp only [hmup, if_true, effect6, hidle]
    omega
  | abort =>
    obtain ⟨-, hmup⟩ := hs
    simp only [hmup, if_true, effect6]
    omega
  | frozen =>
    have hs : d.nextDigit = 6 := hs
    simp [effect6, hs]
  | sync =>
    obtain ⟨-, hmup⟩ := hs
    simp [hmup, effect6]
  | hold n =>
    obtain ⟨hp, hmup, -⟩ := hs
    simp only [hmup, Bool.false_eq_true, if_false, effect6, hp]
    omega
  | capture n =>
    obtain ⟨-, hmup, -⟩ := hs
    simp only [hmup, Bool.false_eq_true, if_false, effect6, Dec6.capture, BitVec.toNat_ofNat]
    omega

/-- A capture moves the phase, so it never leaves the decoder as it was. -/
theorem capture6_ne {c : Config} {n : Fin 6} {sin : Sin6} {d : Dec6} (hp : d.nextDigit.toNat = n.val) :
    Dec6.capture c n sin d ≠ d := by
  intro he
  have hnext : (BitVec.ofNat 4 (n.val + 1)).toNat = d.nextDigit.toNat := congrArg (·.nextDigit.toNat) he
  rw [BitVec.toNat_ofNat, hp] at hnext
  omega

/-- The same word again has an effect exactly where it captures: SYNC and ABORT find another phase than the one that the
first step left. -/
theorem effect6_repeat {cfg : Config} (hi : 7 ≤ cfg.idle.toNat) {sin : Sin6} {c c' : Class6} {d : Dec6}
    (hc : classify6 cfg d.nextDigit sin = some c) (hc' : classify6 cfg (effect6 cfg sin c d).nextDigit sin = some c') :
    effect6 cfg sin c' (effect6 cfg sin c d) ≠ effect6 cfg sin c d ↔ ∃ n, c' = .capture n := by
  have hphase := effect6_phase_of_mup hi hc
  have hs' := classify6_some hc'
  cases c' with
  | idleHold | frozen | hold n => simp [effect6]
  | capture n => exact ⟨fun _ => ⟨n, rfl⟩, fun _ => capture6_ne hs'.1⟩
  | sync =>
    obtain ⟨hidle, hmup⟩ := hs'
    simp only [hmup, Bool.false_eq_true, if_false, hidle] at hphase
    omega
  | abort =>
    obtain ⟨hlt, hmup⟩ := hs'
    simp only [hmup, if_true] at hphase
    omega

/-- The step before a capture with the same word was a SYNC or a capture. -/
theorem effect6_before_capture {cfg : Config} {sin : Sin6} {c : Class6} {d : Dec6} {n : Fin 6}
    (hc : classify6 cfg d.nextDigit sin = some c) (hp : (effect6 cfg sin c d).nextDigit.toNat = n.val)
    (hmup : sin.asserted cfg .mup = false) (hstrobe : sin.asserted cfg (strobe6 n) = true) :
    (d.nextDigit = cfg.idle ∧ (effect6 cfg sin c d).nextDigit = 0 ∧ sin.asserted cfg .s1 = true) ∨
    (∃ h : d.nextDigit.toNat < 6, (effect6 cfg sin c d).nextDigit.toNat = d.nextDigit.toNat + 1 ∧
      sin.asserted cfg (strobe6 ⟨d.nextDigit.toNat, h⟩) = true) := by
  have hs := classify6_some hc
  cases c with
  | idleHold | abort => simp [hmup] at hs
  | frozen =>
    have hs : d.nextDigit = 6 := hs
    have hn : (6 : BitVec 4).toNat = n.val := by rwa [effect6, hs] at hp
    exact absurd hn.symm (Nat.ne_of_lt n.isLt)
  | hold m =>
    obtain ⟨hm, -, hno⟩ := hs
    obtain rfl : m = n := Fin.ext (hm.symm.trans hp)
    simp [hno] at hstrobe
  | sync =>
    obtain rfl : n = 0 := Fin.ext hp.symm
    exact .inl ⟨hs.1, rfl, hstrobe⟩
  | capture m =>
    obtain ⟨hm, -, hcap⟩ := hs
    refine .inr ⟨by omega, ?_, by simpa only [hm] using hcap⟩
    simp only [effect6, Dec6.capture, BitVec.toNat_ofNat]
    omega

/-- Settles O14: `effect6_repeat` says when the second step has an effect, `effect6_before_capture` what the first one was. -/
theorem dec6RepeatedWordLaw : Obligations.Dec6RepeatedWordLaw := by
  unfold Obligations.Dec6RepeatedWordLaw
  intro s t u d d' sin hd hi hd' hfirst hsecond
  obtain ⟨e, c, he, hc, rfl⟩ := exec_dec6Step_next hfirst
  obtain rfl : d = e := Decoder.v6.inj (hd.symm.trans he)
  obtain rfl : effect6 s.cfg sin c d = d' := Decoder.v6.inj hd'
  obtain ⟨_, c', he', hc', rfl⟩ := exec_dec6Step_next hsecond
  cases he'
  have hs' := classify6_some hc'
  have hne : ∀ e : Dec6, ({ s with dec := .v6 e } : State) ≠ { s with dec := .v6 (effect6 s.cfg sin c d) } ↔
      e ≠ effect6 s.cfg sin c d := fun e => by simp
  have hrepeat := (hne _).trans (effect6_repeat hi hc hc')
  refine ⟨hrepeat.trans ⟨?_, ?_⟩, fun h => ?_⟩
  · rintro ⟨n, rfl⟩
    obtain ⟨hp, hmup, hstrobe⟩ := hs'
    exact ⟨by omega, hmup, by simpa only [hp] using hstrobe⟩
  · rintro ⟨hlt, hmup, hstrobe⟩
    exact ⟨_, Option.some.inj (hc'.symm.trans (classify6_capture hi ⟨_, hlt⟩ rfl hmup hstrobe))⟩
  · obtain ⟨n, rfl⟩ := hrepeat.1 h
    obtain ⟨hp, hmup, hstrobe⟩ := hs'
    exact effect6_before_capture hc hp hmup hstrobe

/-! ### A sweep of six digits (R129, R131) -/

/-- A step that sees the expected strobe and no `MUP` is a capture. -/
theorem exec_dec6Step_capture {s : State} {d : Dec6} {sin : Sin6} (hd : s.dec = .v6 d) (hi : 7 ≤ s.cfg.idle.toNat)
    (n : Fin 6) (hp : d.nextDigit.toNat = n.val) (hmup : sin.asserted s.cfg .mup = false)
    (hs : sin.asserted s.cfg (strobe6 n) = true) :
    exec (.dec6Step sin) s = .next { s with dec := .v6 (Dec6.capture s.cfg n sin d) } :=
  exec_dec6Step hd (classify6_capture hi n hp hmup hs)

/-- A run goes on from the state that its first operation leaves. -/
theorem runOps_cons {i : Instr} {is : List Instr} {s t : State} (h : exec i s = .next t) :
    runOps (i :: is) s = runOps is t := by
  simp only [runOps, h]

/-- The decoder after a sweep from the first phase. -/
def swept (c : Config) (w : Fin 6 → Sin6) : Dec6 :=
  (List.finRange 6).foldl (fun d n => Dec6.capture c n (w n) d) ⟨0, 0, 0⟩

/-- The steps of a sweep are its six captures. -/
theorem runOps_sweep {s : State} {w : Fin 6 → Sin6} (hi : 7 ≤ s.cfg.idle.toNat) (hd : s.dec = .v6 ⟨0, 0, 0⟩)
    (hw : ∀ n, (w n).asserted s.cfg .mup = false ∧ (w n).asserted s.cfg (strobe6 n) = true) :
    runOps [.dec6Step (w 0), .dec6Step (w 1), .dec6Step (w 2), .dec6Step (w 3), .dec6Step (w 4), .dec6Step (w 5)] s =
      .next { s with dec := .v6 (swept s.cfg w) } := by
  have hstep (n : Fin 6) (d : Dec6) (hp : d.nextDigit.toNat = n.val) :
      exec (.dec6Step (w n)) { s with dec := .v6 d } = .next { s with dec := .v6 (Dec6.capture s.cfg n (w n) d) } :=
    exec_dec6Step_capture (s := { s with dec := .v6 d }) rfl hi n hp (hw n).1 (hw n).2
  have hs : s = { s with dec := .v6 ⟨0, 0, 0⟩ } := by rw [← hd]
  rw [hs, runOps_cons (hstep 0 _ ?_), runOps_cons (hstep 1 _ ?_), runOps_cons (hstep 2 _ ?_), runOps_cons (hstep 3 _ ?_),
    runOps_cons (hstep 4 _ ?_), runOps_cons (hstep 5 _ ?_)] <;> rfl

/-- A capture appends a digit to the reading, while there is room for it. -/
theorem capture6_reading_toNat {c : Config} (hw : 24 ≤ c.wReading6) (n : Fin 6) (sin : Sin6) {d : Dec6}
    (hroom : d.reading.toNat < 16 ^ 5) :
    (Dec6.capture c n sin d).reading.toNat = d.reading.toNat * 16 + (digit6 c sin).toNat := by
  have hdigit := (digit6 c sin).isLt
  have hshift : (d.reading <<< 4).toNat = d.reading.toNat <<< 4 := by
    rw [BitVec.toNat_shiftLeft, Nat.shiftLeft_eq, Nat.mod_eq_of_lt (by omega)]
  rw [capture6_eq hw, BitVec.toNat_or, hshift, BitVec.toNat_setWidth, Nat.mod_eq_of_lt (by omega),
    ← Nat.shiftLeft_add_eq_or_of_lt hdigit, Nat.shiftLeft_eq]

/-- A run of captures packs its digits big-endian (R86) behind the `m` digits that the reading holds, while six are not
exceeded. -/
theorem captures_reading_toNat {c : Config} (hw : 24 ≤ c.wReading6) (w : Fin 6 → Sin6) (ns : List (Fin 6)) (d : Dec6)
    {m : Nat} (hd : d.reading.toNat < 16 ^ m) (hm : m + ns.length ≤ 6) :
    (ns.foldl (fun d n => Dec6.capture c n (w n) d) d).reading.toNat =
      ns.foldl (fun r n => r * 16 + (digit6 c (w n)).toNat) d.reading.toNat := by
  induction ns generalizing d m with
  | nil => rfl
  | cons n ns ih =>
    rw [List.length_cons] at hm
    have hroom : 16 ^ m ≤ 16 ^ 5 := Nat.pow_le_pow_right (by decide) (by omega)
    have hone := capture6_reading_toNat hw n (w n) (hd.trans_le hroom)
    have hdigit := (digit6 c (w n)).isLt
    have hnext : (Dec6.capture c n (w n) d).reading.toNat < 16 ^ (m + 1) := by
      rw [hone, Nat.pow_succ]
      omega
    rw [List.foldl_cons, List.foldl_cons, ih _ hnext (by omega), hone]

/-- Settles O17: the sweep is its six captures, which pack the digits; each with DP records its own decimal index. -/
theorem sweep6PacksDigitsInOrder : Obligations.Sweep6PacksDigitsInOrder := by
  unfold Obligations.Sweep6PacksDigitsInOrder
  intro s w hi hwidth hd hw
  refine ⟨swept s.cfg w, runOps_sweep hi hd hw, rfl, ?_, rfl⟩
  have hpacked := captures_reading_toNat hwidth w (List.finRange 6) ⟨0, 0, 0⟩ (m := 0) (by decide) (by decide)
  have hsix : List.finRange 6 = [0, 1, 2, 3, 4, 5] := by decide
  have hzero : (⟨0, 0, 0⟩ : Dec6).reading.toNat = 0 := rfl
  rw [swept, hpacked, hsix, hzero]
  simp only [List.foldl_cons, List.foldl_nil]
  omega

end Sys2Proof.Proofs

/-! The invariant of the loop (R132, R151, R168, R239): from each of its states every turn takes a next state, and keeps it. -/

namespace Sys2Proof.Proofs
open Sys2Proof.Machine

/-! ### Fields that the invariant does not read -/

/-- The wire trace, the wake flag, the interrupt sets and the environment are no part of the invariant. -/
theorem inv_unread {s : State} (h : s.Inv) (wire : List Bool) (awake : Bool) (ie ifg : LineSet) (env : Env) :
    State.Inv { s with wire := wire, awake := awake, ie := ie, ifg := ifg, env := env } :=
  { h with }

theorem afterTurn_eq (s : State) : s.afterTurn = { s with env := s.afterTurn.env } := by
  unfold State.afterTurn; split <;> rfl

theorem afterSample_eq (s : State) : s.afterSample = { s with env := s.afterSample.env } := by
  unfold State.afterSample; split <;> rfl

theorem inv_afterTurn {s : State} (h : s.Inv) : s.afterTurn.Inv := by
  rw [afterTurn_eq]
  exact inv_unread h _ _ _ _ _

theorem inv_afterSample {s : State} (h : s.Inv) : s.afterSample.Inv := by
  rw [afterSample_eq]
  exact inv_unread h _ _ _ _ _

/-! ### Texts (R168) -/

/-- A character that the buffer reads is one of its cells. -/
theorem mem_of_read {m : Memory} {i : Nat} {c : Byte} (h : m.read i = some c) : (i, c) ∈ m := by
  induction m with
  | nil => simp at h
  | cons x m ih =>
    obtain ⟨a, v⟩ := x
    rw [Memory.read_cons] at h
    split at h
    next ha => simp_all
    next ha => exact List.mem_cons_of_mem _ (ih h)

/-- A buffer that reads as a text with a terminator in it holds a terminated text from its start: up to the first 0x00, which
may stand before the last one. -/
theorem textFrom_zero_of_read {s : State} {text : List Byte} (hbound : ∀ x ∈ s.txbuf, x.1 < s.txbufLen)
    (hread : ∀ j, s.txbuf.read j = text[j]?) (hzero : 0 ∈ text) : s.TextFrom 0 := by
  have hex : ∃ n, s.txbuf.read n = some 0 := by
    obtain ⟨n, hn⟩ := List.mem_iff_getElem?.1 hzero
    exact ⟨n, (hread n).trans hn⟩
  have hend := Nat.find_spec hex
  obtain ⟨hlen, -⟩ := List.getElem?_eq_some_iff.1 ((hread _).symm.trans hend)
  refine ⟨Nat.find hex, Nat.zero_le _, hbound _ (mem_of_read hend), hend, fun j _ hj => ?_⟩
  have hchar : s.txbuf.read j = some text[j] := (hread j).trans (List.getElem?_eq_getElem (hj.trans hlen))
  exact ⟨text[j], hchar, fun h0 => Nat.find_min hex hj (hchar.trans (congrArg some h0))⟩

/-- The first character of a terminated text is inside the buffer and written, and the text goes on after it unless it is the
terminator. -/
theorem textFrom_head {s : State} {i : Nat} (h : s.TextFrom i) :
    i < s.txbufLen ∧ ∃ c, s.txbuf.read i = some c ∧ (c ≠ 0 → i + 1 < s.txbufLen ∧ s.TextFrom (i + 1)) := by
  obtain ⟨n, hin, hn, hend, hchars⟩ := h
  refine ⟨by omega, ?_⟩
  by_cases hi : i = n
  · subst hi
    exact ⟨0, hend, fun h => absurd rfl h⟩
  · obtain ⟨c, hc, -⟩ := hchars i le_rfl (by omega)
    exact ⟨c, hc, fun _ => ⟨by omega, n, by omega, hn, hend, fun j hj => hchars j (by omega)⟩⟩

theorem textFrom_hasTerminator {s : State} {i : Nat} (h : s.TextFrom i) : s.hasTerminator = true := by
  obtain ⟨n, -, hn, hend, -⟩ := h
  exact s.hasTerminator_iff.2 ⟨n, hn, hend⟩

/-! ### The bit clock (R162, R163) -/

/-- The top bit of a frame is its stop bit (R90). -/
theorem frameLoad_stop (c : Byte) : (frameLoad c).getLsbD 8 = true := by
  rw [frameLoad_eq, BitVec.getLsbD_or]
  simp

/-- `TX.LOAD` between frames: the character is written and inside the buffer (R168), so a frame starts, or the transmission
ends at the terminator. -/
theorem txLoadNext_inv {s : State} (h : s.Inv) (hb : s.tx.busy = true) (hg : s.gap = 0) :
    ∃ t, s.txLoadNext = .next t ∧ t.Inv := by
  obtain ⟨hlt, c, hc, -⟩ := textFrom_head (h.busyText hb)
  refine ⟨_, State.txLoadNext_spec hlt hc, ?_⟩
  split
  next => exact { h with
    busyAt := fun hf => nomatch hf
    busyText := fun hf => nomatch hf
    inFrame := fun hf => nomatch hf
    gapBetween := fun hne => absurd hg hne
    lineMark := fun _ => rfl }
  next hne => exact { h with
    inFrame := fun _ _ => ⟨c, hc, hne⟩
    cntLe := le_rfl
    marks := fun i hi hi9 => by
      obtain rfl : i = 8 := by
        have : 9 ≤ i + 1 := hi
        omega
      exact frameLoad_stop c
    gapBetween := fun hne => absurd hg hne
    lineMark := fun hf => by rcases hf with hf | hf <;> simp [hb] at hf }

theorem gapAfterFrame_le (s : State) : s.gapAfterFrame ≤ s.cfg.gIdle := by
  unfold State.gapAfterFrame
  split
  · exact Nat.zero_le _
  · exact le_rfl

/-- `TX.TICK` inside a frame. The ninth tick ends the frame on its stop bit, a mark, and moves to the next character of the
text; it exists, because the character sent is no terminator. -/
theorem txTick_inv {s : State} (h : s.Inv) (hb : s.tx.busy = true) (hc : s.tx.cnt ≠ 0) :
    ∃ t, exec .txTick s = .next t ∧ t.Inv := by
  refine ⟨_, execTxTick_spec hb hc, ?_⟩
  have hcnt : (s.tx.cnt - 1).toNat + 1 = s.tx.cnt.toNat := by bv_omega
  have hlast : s.tx.cnt - 1 = 0 ↔ s.tx.cnt = 1 := by bv_omega
  exact { h with
    busyText := fun _ => by
      show s.TextFrom (if s.tx.cnt = 1 then s.tx.idx + 1 else s.tx.idx).toNat
      split
      next =>
        obtain ⟨c, hread, hne⟩ := h.inFrame hb hc
        obtain ⟨-, c', hread', hnext⟩ := textFrom_head (h.busyText hb)
        obtain rfl : c = c' := Option.some.inj (hread.symm.trans hread')
        obtain ⟨hlt, htext⟩ := hnext hne
        have hlen := txbufLen_le h.cfgValid
        have hidx : (s.tx.idx + 1).toNat = s.tx.idx.toNat + 1 := by bv_omega
        rwa [hidx]
      next => exact h.busyText hb
    inFrame := fun _ hne => by
      have h1 : s.tx.cnt ≠ 1 := fun h1 => hne (hlast.2 h1)
      simpa only [if_neg h1] using h.inFrame hb hc
    cntLe := by
      have := h.cntLe
      show (s.tx.cnt - 1).toNat ≤ 9
      omega
    marks := fun i hi hi9 => by
      have hi : (s.tx.cnt - 1).toNat ≤ i + 1 := hi
      show (1#1 ++ s.tx.sr.extractLsb' 1 8 : BitVec 9).getLsbD i = true
      rw [tickShift_bit _ hi9]
      split
      next => rfl
      next => exact h.marks (i + 1) (by omega) (by omega)
    gapBetween := fun hne => by
      by_cases h1 : s.tx.cnt = 1
      · exact ⟨hb, hlast.2 h1⟩
      · simp only [if_neg h1] at hne
        exact absurd (h.gapBetween hne).2 hc
    gapLe := by
      show (if s.tx.cnt = 1 then s.gapAfterFrame else s.gap) ≤ s.cfg.gIdle
      split
      next => exact gapAfterFrame_le s
      next => exact h.gapLe
    lineMark := fun hf => by
      have h1 : s.tx.cnt = 1 := hlast.1 (hf.resolve_left (by simp [hb]))
      exact h.marks 0 (by simp [h1]) (by decide) }

/-- A bit time of the gap passes. -/
theorem inv_gap {s : State} (h : s.Inv) (g : Nat) (hg : g ≤ s.gap) : State.Inv { s with gap := g } :=
  { h with
    gapBetween := fun hne => h.gapBetween (fun h0 => hne (by simpa [h0] using hg))
    gapLe := hg.trans h.gapLe }

/-! ### The sequencer (R200) -/

/-- What the invariant asks of a decoder and a sequencer once the loop runs and outside `SEQ.TRANSMIT`. -/
structure LoopOk (c : Config) (d : Decoder) (q : Sequencer) : Prop where
  reachable : d.Reachable c
  complete : d.complete = q.pos.afterComplete
  pos : q.pos ∉ [.init, .transmit]
  asleep : q.asleep = true → q.pos = .sleep
  result : q.pos = .format → q.reading = d.reading24 ∧ q.dp = d.dpIndex

/-- With an idle transmitter, writes to the decoder and the sequencer keep the invariant where the two agree. -/
theorem inv_of_loopOk {s : State} (h : s.Inv) (hb : s.tx.busy = false) {d : Decoder} {q : Sequencer} {armed : Bool}
    (hlen : State.txbufLen { s with dec := d } = s.txbufLen) (harmed : armed = true) (hq : LoopOk s.cfg d q) :
    State.Inv { s with dec := d, seq := q, wdtArmed := armed } := by
  have hpos : q.pos ≠ .init ∧ q.pos ≠ .transmit := by simpa using hq.pos
  exact { h with
    decReachable := hq.reachable
    bufBound := fun x hx => (h.bufBound x hx).trans_eq hlen.symm
    completeIff := hq.complete
    initDec := fun hp => absurd hp hpos.1
    armedIff := by simpa [harmed] using hpos.1
    asleepAt := hq.asleep
    result := hq.result
    toSend := fun hp => absurd hp hpos.2
    busyAt := fun hf => by simp [hb] at hf
    busyText := fun hf => by simp [hb] at hf
    inFrame := fun hf => by simp [hb] at hf }

theorem cleared_txbufLen (s : State) : State.txbufLen { s with dec := s.dec.cleared s.cfg } = s.txbufLen := by
  cases hd : s.dec <;> simp [State.txbufLen, Decoder.cleared, hd]

theorem inv_armed {s : State} (h : s.Inv) (hp : s.seq.pos ≠ .init) : s.wdtArmed = true := by
  simpa [h.armedIff] using hp

theorem inv_not_asleep {s : State} (h : s.Inv) (hp : s.seq.pos ≠ .sleep) : s.seq.asleep = false := by
  simpa using fun ha => hp (h.asleepAt ha)

/-- A place of the loop with a reset decoder. -/
theorem loopOk_cleared {s : State} (h : s.Inv) (hp : s.seq.pos ≠ .sleep) :
    LoopOk s.cfg (s.dec.cleared s.cfg) { s.seq with pos := .arm } where
  reachable := Decoder.cleared_reachable _ _
  complete := Decoder.cleared_complete (valid_idle h.cfgValid) _
  pos := by simp
  asleep := fun ha => by simp [inv_not_asleep h hp] at ha
  result := fun hp => nomatch hp

theorem seqInit_inv {s : State} (h : s.Inv) (hb : s.tx.busy = false) (hp : s.seq.pos = .init) :
    ∃ t, exec .seqInit s = .next t ∧ t.Inv :=
  ⟨_, rfl, inv_of_loopOk h hb (cleared_txbufLen s) rfl (loopOk_cleared h (by simp [hp]))⟩

theorem seqRearm_inv {s : State} (h : s.Inv) (hb : s.tx.busy = false) (hp : s.seq.pos = .rearm) :
    ∃ t, exec .seqRearm s = .next t ∧ t.Inv :=
  have harmed : s.wdtArmed = true := inv_armed h (by simp [hp])
  ⟨_, rfl, inv_of_loopOk h hb (cleared_txbufLen s) harmed (loopOk_cleared h (by simp [hp]))⟩

/-- The places of the loop up to the completing step. -/
def acquiring : SeqPos → Bool
  | .arm | .sleep | .wake | .sample | .step => true
  | .init | .aux | .format | .transmit | .rearm => false

theorem acquiring_spec {p : SeqPos} (h : acquiring p = true) :
    p ≠ .init ∧ p ≠ .format ∧ p ≠ .transmit ∧ p.afterComplete = false := by
  cases p <;> simp_all [acquiring, SeqPos.afterComplete]

/-- Moves among those places ask nothing of the result or the buffer. -/
theorem inv_acquiring {s : State} (h : s.Inv) (hb : s.tx.busy = false) {q : Sequencer}
    (hs : acquiring s.seq.pos = true) (hq : acquiring q.pos = true) (hasleep : q.asleep = true → q.pos = .sleep) :
    State.Inv { s with seq := q } := by
  obtain ⟨hinit, -, -, hs⟩ := acquiring_spec hs
  obtain ⟨hinit', hformat, htransmit, hq⟩ := acquiring_spec hq
  exact inv_of_loopOk h hb rfl (inv_armed h hinit)
    ⟨h.decReachable, by rw [h.completeIff, hs, hq], by simp [hinit', htransmit], hasleep, fun hp => absurd hp hformat⟩

/-- `SEQ.ARM` has relevant lines to arm: the decoder is in no reserved phase. -/
theorem seqArm_inv {s : State} (h : s.Inv) (hb : s.tx.busy = false) (hp : s.seq.pos = .arm) :
    ∃ t, exec .seqArm s = .next t ∧ t.Inv := by
  obtain ⟨r, hr⟩ := relevant_some h.decReachable
  have hsleep : State.Inv { s with seq := { s.seq with pos := .sleep } } :=
    inv_acquiring h hb (by rw [hp]; rfl) rfl fun _ => rfl
  simp only [exec, execSeqArm, hr]
  exact ⟨_, rfl, inv_unread hsleep _ _ _ _ _⟩

theorem seqSleep_inv {s : State} (h : s.Inv) (hb : s.tx.busy = false) (hp : s.seq.pos = .sleep) :
    ∃ t, exec .seqSleep s = .next t ∧ t.Inv := by
  have hs : acquiring s.seq.pos = true := by rw [hp]; rfl
  have hwake : State.Inv { s with seq := { s.seq with asleep := false, pos := .wake } } :=
    inv_acquiring h hb hs rfl fun ha => nomatch ha
  have hstay : State.Inv { s with seq := { s.seq with asleep := true } } := inv_acquiring h hb hs hs fun _ => hp
  simp only [exec, execSeqSleep]
  split
  · exact ⟨_, rfl, inv_unread hwake _ _ _ _ _⟩
  · exact ⟨_, rfl, hstay⟩

theorem seqWake_inv {s : State} (h : s.Inv) (hb : s.tx.busy = false) (hp : s.seq.pos = .wake) :
    ∃ t, exec .seqWake s = .next t ∧ t.Inv := by
  have hawake := inv_not_asleep h (by simp [hp])
  exact ⟨_, rfl, inv_acquiring h hb (by rw [hp]; rfl) rfl fun ha => by simp [hawake] at ha⟩

theorem seqSample_inv {s : State} (h : s.Inv) (hb : s.tx.busy = false) (hp : s.seq.pos = .sample) :
    ∃ t, exec .seqSample s = .next t ∧ t.Inv := by
  have hawake := inv_not_asleep h (by simp [hp])
  exact ⟨_, rfl, inv_acquiring (inv_afterSample h) (by simpa using hb) (by rw [State.afterSample_seq, hp]; rfl) rfl
    fun ha => by simp [hawake] at ha⟩

/-- A decoder step from a reachable state completes (R132, R151) in a reachable state of the same family. -/
theorem decStep_reachable {s : State} (hi : 7 ≤ s.cfg.idle.toNat) (h : s.dec.Reachable s.cfg) :
    ∃ d : Decoder, exec .seqStep s = .next (State.afterStep { s with dec := d }) ∧ d.Reachable s.cfg ∧
      State.txbufLen { s with dec := d } = s.txbufLen := by
  cases hd : s.dec with
  | v6 d =>
    have hr : d.Reachable s.cfg := by rwa [hd] at h
    obtain ⟨c, hc⟩ := classify6_total s.cfg d.nextDigit ⟨s.seq.sample⟩ (Dec6.reachable_phase hr)
    refine ⟨.v6 _, by rw [exec_seqStep_v6 hd, exec_dec6Step hd hc, onNext_next], effect6_reachable hi hr hc, ?_⟩
    simp only [State.txbufLen, hd]
  | v4 d =>
    have hr : d.Reachable s.cfg := by rwa [hd] at h
    obtain ⟨c, hc⟩ := classify4_total s.cfg d.nextDigit ⟨s.seq.sample⟩ (Dec4.reachable_phase hr)
    refine ⟨.v4 _, by rw [exec_seqStep_v4 hd, exec_dec4Step hd hc, onNext_next], effect4_reachable hi hr hc, ?_⟩
    simp only [State.txbufLen, hd]

theorem seqStep_inv {s : State} (h : s.Inv) (hb : s.tx.busy = false) (hp : s.seq.pos = .step) :
    ∃ t, exec .seqStep s = .next t ∧ t.Inv := by
  obtain ⟨d, hstep, hreach, hlen⟩ := decStep_reachable (valid_idle h.cfgValid) h.decReachable
  have harmed := inv_armed h (by simp [hp])
  have hawake := inv_not_asleep h (by simp [hp])
  refine ⟨_, hstep, inv_of_loopOk h hb hlen harmed ⟨hreach, ?_, ?_, fun ha => by simp [hawake] at ha, ?_⟩⟩ <;>
    cases d.complete <;> simp [SeqPos.afterComplete]

theorem seqAux_inv {s : State} (h : s.Inv) (hb : s.tx.busy = false) (hp : s.seq.pos = .aux) :
    ∃ t, exec .seqAux s = .next t ∧ t.Inv := by
  have harmed := inv_armed h (by simp [hp])
  have hawake := inv_not_asleep h (by simp [hp])
  have hcomplete : s.dec.complete = true := by rw [h.completeIff, hp]; rfl
  refine ⟨_, rfl, inv_of_loopOk (inv_afterSample h) (by simpa using hb) rfl (by simpa using harmed)
    ⟨(inv_afterSample h).decReachable, ?_, ?_, ?_, ?_⟩⟩
  · simpa [SeqPos.afterComplete] using hcomplete
  · simp
  · simp [hawake]
  · simp

/-! ### Formatting and sending (R208, R209) -/

/-- The formatter of the decoder's family completes on its reading, and leaves a terminated text inside the buffer. -/
theorem seqFormat_spec {s : State} (h : s.Inv) (hp : s.seq.pos = .format) :
    ∃ (m : Memory) (n : Nat) (text : List Byte),
      exec .seqFormat s = .next (State.goTo { s.drawn n with txbuf := m } .transmit) ∧
      (∀ j, m.read j = text[j]?) ∧ 0 ∈ text ∧ m.wf = true ∧ ∀ x ∈ m, x.1 < s.txbufLen := by
  obtain ⟨-, hdp⟩ := h.result hp
  cases hd : s.dec with
  | v6 d =>
    have hr : d.Reachable s.cfg := by
      have := h.decReachable
      rwa [hd] at this
    have hle : s.seq.dp.toNat ≤ 6 := by simpa [hdp, hd, Decoder.dpIndex] using Dec6.reachable_dp hr
    obtain ⟨m, hm, hread, hwf, hbound⟩ := execFmt6_spec hd h.cfgValid s.seq.reading hle ⟨s.seq.aux⟩
    exact ⟨m, 6, _, by simp only [exec, execSeqFormat, hd, hm, onNext_next], hread, by simp [text6, lineEnd], hwf,
      hbound⟩
  | v4 d =>
    obtain ⟨m, hm, hread, hwf, hbound⟩ := execFmt4_spec hd h.cfgValid (s.seq.reading.setWidth 16)
    exact ⟨m, 3, _, by simp only [exec, execSeqFormat, hd, hm, onNext_next], hread, by simp [text4, lineEnd], hwf,
      hbound⟩

theorem seqFormat_inv {s : State} (h : s.Inv) (hb : s.tx.busy = false) (hp : s.seq.pos = .format) :
    ∃ t, exec .seqFormat s = .next t ∧ t.Inv := by
  obtain ⟨m, n, text, hstep, hread, hzero, hwf, hbound⟩ := seqFormat_spec h hp
  have harmed := inv_armed h (by simp [hp])
  have hawake := inv_not_asleep h (by simp [hp])
  have hcomplete : s.dec.complete = true := by rw [h.completeIff, hp]; rfl
  exact ⟨_, hstep, { h with
    bufWf := hwf
    bufBound := hbound
    completeIff := hcomplete
    initDec := fun hp => nomatch hp
    armedIff := harmed
    asleepAt := fun ha => by simp [hawake] at ha
    result := fun hp => nomatch hp
    toSend := fun _ => textFrom_zero_of_read hbound hread hzero
    busyAt := fun hf => by simp [hb] at hf
    busyText := fun hf => by simp [hb] at hf
    inFrame := fun hf => by simp [hb] at hf }⟩

/-- `TX.LOAD` of a written character does not see the sequencer's place. -/
theorem onNext_txLoadNext_goTo {s : State} {c : Byte} (hi : s.tx.idx.toNat < s.txbufLen)
    (hc : s.txbuf.read s.tx.idx.toNat = some c) (p : SeqPos) :
    onNext s.txLoadNext (·.goTo p) = (s.goTo p).txLoadNext := by
  rw [State.txLoadNext_spec hi hc, State.txLoadNext_spec (s := s.goTo p) hi hc]
  split <;> rfl

/-- The framing hardware after the explicit reset of `TX.SEND` (R161). -/
def txStarted (s : State) : State := { s with tx := ⟨true, 0x1FF, 0, 0⟩, txd := true, gap := 0 }

/-- `TX.SEND` of a terminated text by an idle transmitter is a `TX.LOAD` of its first character. -/
theorem execTxSend_spec {s : State} (hb : s.tx.busy = false) (htext : s.TextFrom 0) :
    execTxSend s = (txStarted s).txLoadNext := by
  simp only [execTxSend, hb, textFrom_hasTerminator htext, if_true]
  rfl

/-- `SEQ.TRANSMIT` is a `TX.LOAD` at the start of the buffer, by a transmitter that has just been started. -/
theorem seqTransmit_inv {s : State} (h : s.Inv) (hb : s.tx.busy = false) (hp : s.seq.pos = .transmit) :
    ∃ t, exec .seqTransmit s = .next t ∧ t.Inv := by
  have htext := h.toSend hp
  have harmed := inv_armed h (by simp [hp])
  have hcomplete : s.dec.complete = true := by rw [h.completeIff, hp]; rfl
  have hstarted : ((txStarted s).goTo .rearm).Inv := { h with
    completeIff := hcomplete
    initDec := fun hp => nomatch hp
    armedIff := harmed
    asleepAt := fun ha => absurd (h.asleepAt ha) (by simp [hp])
    result := fun hp => nomatch hp
    toSend := fun hp => nomatch hp
    busyAt := fun _ => rfl
    busyText := fun _ => htext
    inFrame := fun _ hne => absurd rfl hne
    cntLe := Nat.zero_le 9
    marks := fun _ _ hi => idle_sr_bit hi
    gapBetween := fun hne => absurd rfl hne
    gapLe := Nat.zero_le _
    lineMark := fun _ => rfl }
  have hsend : exec .seqTransmit s = ((txStarted s).goTo .rearm).txLoadNext := by
    obtain ⟨hlt, c, hc, -⟩ := textFrom_head htext
    rw [← onNext_txLoadNext_goTo (s := txStarted s) hlt hc, ← execTxSend_spec hb htext]
    rfl
  rw [hsend]
  exact txLoadNext_inv hstarted rfl rfl

/-- The action at every place of the loop. -/
theorem seqOp_inv {s : State} (h : s.Inv) (hb : s.tx.busy = false) :
    ∃ t, exec s.seq.pos.op s = .next t ∧ t.Inv := by
  cases hp : s.seq.pos with
  | init => exact seqInit_inv h hb hp
  | arm => exact seqArm_inv h hb hp
  | sleep => exact seqSleep_inv h hb hp
  | wake => exact seqWake_inv h hb hp
  | sample => exact seqSample_inv h hb hp
  | step => exact seqStep_inv h hb hp
  | aux => exact seqAux_inv h hb hp
  | format => exact seqFormat_inv h hb hp
  | transmit => exact seqTransmit_inv h hb hp
  | rearm => exact seqRearm_inv h hb hp

/-! ### Interrupts, the watchdog, and every turn -/

theorem irqEdge_inv {s : State} (h : s.Inv) (l : Line) : ∃ t, exec (.irqEdge l) s = .next t ∧ t.Inv := by
  simp only [exec, execIrqEdge]
  split
  · exact ⟨_, rfl, inv_unread h _ _ _ _ _⟩
  · exact ⟨_, rfl, h⟩

/-- Settles O58: by the turn, and on the bit clock's by where the transmitter is. -/
theorem everyStepRunsAndKeepsTheInvariant : Obligations.EveryStepRunsAndKeepsTheInvariant := by
  unfold Obligations.EveryStepRunsAndKeepsTheInvariant
  intro s hs
  have h := inv_afterTurn hs
  cases ht : s.turn with
  | main =>
    cases hb : s.tx.busy with
    | false =>
      rw [step_main ht hb, ← State.afterTurn_seq]
      exact seqOp_inv h (by simpa using hb)
    | true => exact ⟨_, step_main_busy ht hb, h⟩
  | edge l =>
    rw [step_edge ht]
    exact irqEdge_inv h l
  | irq =>
    rw [step_irq ht]
    split
    · exact ⟨_, rfl, h⟩
    · exact ⟨_, rfl, inv_unread h _ _ _ _ _⟩
  | bitClock =>
    cases hb : s.tx.busy with
    | false => exact ⟨_, step_bitClock_idle ht hb, h⟩
    | true =>
      by_cases hc : s.tx.cnt = 0
      · by_cases hg : s.gap = 0
        · rw [step_bitClock_load ht hb hc hg]
          exact txLoadNext_inv h (by simpa using hb) (by simpa using hg)
        · exact ⟨_, step_bitClock_gap ht hb hc hg, inv_gap h _ (by simp)⟩
      · rw [step_bitClock_frame ht hb hc]
        exact txTick_inv h (by simpa using hb) (by simpa using hc)
  | watchdog =>
    rw [step_watchdog ht]
    split
    next he =>
      refine ⟨s.afterTurn.fullReset, ?_, resetOf_inv h.cfgValid _ _ _⟩
      simp [exec, execWdtReset, he]
    next => exact ⟨_, rfl, h⟩

end Sys2Proof.Proofs

/-! The 4-digit decoder (41_decoder_v4.md): what each class writes, the dispatch, the repeated word, and a sweep. -/

namespace Sys2Proof.Proofs
open Sys2Proof.Machine

/-! ### The classes one by one (R142 to R147) -/

/-- A class row that R100 selects has the writes of its class. -/
theorem exec_class4_selected {s : State} {d : Dec4} {sin : Sin4} {c : Class4} (hd : s.dec = .v4 d)
    (hc : classify4 s.cfg d.nextDigit sin = some c) :
    exec (c.instr sin) s = .next { s with dec := .v4 (effect4 s.cfg sin c d) } := by
  rw [exec_class4, onClass4_selected _ hd hc]

/-- A class row that R100 selects and whose writes are what the decoder holds changes nothing. -/
theorem exec_class4_unchanged {s : State} {d : Dec4} {sin : Sin4} {c : Class4} (hd : s.dec = .v4 d)
    (hc : classify4 s.cfg d.nextDigit sin = some c) (he : effect4 s.cfg sin c d = d) :
    exec (c.instr sin) s = .next s := by
  rw [exec_class4_selected hd hc, he, ← hd]

/-- The word and the phase that make R100 select a hold. -/
theorem classify4_hold {c : Config} (hi : 7 ≤ c.idle.toNat) {p : BitVec 4} {sin : Sin4} (k : Fin 4)
    (hp : p.toNat = k.val) (hmup : sin.asserted c .mup = false) (hs : sin.asserted c (strobe4 k) = false) :
    classify4 c p sin = some (.hold k) := by
  simp [classify4_capturing hi sin k hp, hmup, hs]

theorem classify4_capture {c : Config} (hi : 7 ≤ c.idle.toNat) {p : BitVec 4} {sin : Sin4} (k : Fin 4)
    (hp : p.toNat = k.val) (hmup : sin.asserted c .mup = false) (hs : sin.asserted c (strobe4 k) = true) :
    classify4 c p sin = some (.capture k) := by
  simp [classify4_capturing hi sin k hp, hmup, hs]

/-- A phase given as a number of arrivals is that number. -/
theorem toNat_ofNat_arrivals {p : BitVec 4} {k : Fin 4} (hp : p = BitVec.ofNat 4 k.val) : p.toNat = k.val := by
  rw [hp, BitVec.toNat_ofNat]
  omega

/-- Settles O7: R100 selects each of these classes, and none of them writes. -/
theorem dec4HoldingClassesWriteNothing : Obligations.Dec4HoldingClassesWriteNothing := by
  unfold Obligations.Dec4HoldingClassesWriteNothing
  intro s d sin hd hi
  have hhold (k : Fin 4) (hmup : sin.asserted s.cfg .mup = false) (hp : d.nextDigit = BitVec.ofNat 4 k.val)
      (hs : sin.asserted s.cfg (strobe4 k) = false) : exec ((Class4.hold k).instr sin) s = .next s :=
    exec_class4_unchanged hd (classify4_hold hi k (toNat_ofNat_arrivals hp) hmup hs) rfl
  refine ⟨fun hp hmup => ?_, fun hp => ?_, fun hmup => ⟨hhold 0 hmup, hhold 1 hmup, hhold 2 hmup, hhold 3 hmup⟩⟩
  · exact exec_class4_unchanged (c := .idleHold) hd (by rw [hp, classify4_idle, hmup]; rfl) rfl
  · exact exec_class4_unchanged (c := .frozen) hd (by rw [hp, classify4_complete hi]) rfl

/-- Settles O8: R100 selects SYNC in `Idle` without `MUP`, and ABORT in a capturing phase with it, whatever the strobes. -/
theorem dec4SyncAndAbortClear : Obligations.Dec4SyncAndAbortClear := by
  unfold Obligations.Dec4SyncAndAbortClear
  intro s d sin hd hi
  refine ⟨fun hp hmup => ?_, fun hp hmup => ?_⟩
  · exact exec_class4_selected (c := .sync) hd (by rw [hp, classify4_idle, hmup]; rfl)
  · exact exec_class4_selected (c := .abort) hd (classify4_abort hi (by omega) hmup)

/-- The strobes in the order of arrival (R149). -/
theorem get_strobes4 (k : Fin 4) : [Line4.dg1, .dg3, .dg2, .dg4].get k = strobe4 k := by
  fin_cases k <;> rfl

theorem get_captures4 (sin : Sin4) (k : Fin 4) :
    [Instr.dec4Capture1 sin, .dec4Capture2 sin, .dec4Capture3 sin, .dec4Capture4 sin].get k =
      (Class4.capture k).instr sin := by
  fin_cases k <;> rfl

theorem get_holds4 (sin : Sin4) (k : Fin 4) :
    [Instr.dec4Hold1 sin, .dec4Hold2 sin, .dec4Hold3 sin, .dec4Hold4 sin].get k = (Class4.hold k).instr sin := by
  fin_cases k <;> rfl

/-- The places of the nibbles in the order of arrival (R149), under each numbering (D8). -/
theorem get_places_lsdFirst (k : Fin 4) : [0, 2, 1, 3].get k = fill4 .lsdFirst k := by
  fin_cases k <;> rfl

theorem get_places_msdFirst (k : Fin 4) : [3, 1, 2, 0].get k = fill4 .msdFirst k := by
  fin_cases k <;> rfl

/-- A capture into a register that holds all four nibbles replaces the one at its place (R145, D5). -/
theorem nibble_capture4 {c : Config} (hw : 16 ≤ c.wReading4) (k : Fin 4) (sin : Sin4) (d : Dec4) {j : Nat} (hj : j < 4) :
    nibble (Dec4.capture c k sin d).reading j =
      if j = fill4 c.numbering4 k then digit4 c sin else nibble d.reading j := by
  have hset := nibble_setNibble d.reading (digit4 c sin) ⟨_, fill4_lt c.numbering4 k⟩ ⟨j, hj⟩
  simp only [Fin.mk.injEq] at hset
  rw [Dec4.capture, inWidth_eq _ hw, hset]

/-- Settles O9: R100 selects CAPTURE k + 1, whose reading is `nibble_capture4`. -/
theorem dec4CapturePlacesNibble : Obligations.Dec4CapturePlacesNibble := by
  unfold Obligations.Dec4CapturePlacesNibble
  intro k s d sin hd hi hw hp hmup hs
  rw [get_strobes4] at hs
  have hclass := classify4_capture hi k (toNat_ofNat_arrivals hp) hmup hs
  refine ⟨(Dec4.capture s.cfg k sin d).reading, ?_, fun j => ?_⟩
  · rw [get_captures4, exec_class4_selected hd hclass]
    rfl
  · rw [nibble_capture4 hw k sin d j.isLt]
    cases s.cfg.numbering4 with
    | lsdFirst => rw [← get_places_lsdFirst]
    | msdFirst => rw [← get_places_msdFirst]

/-! ### The dispatch (R148) -/

/-- `DEC4.STEP` is the operation of the class that R100 selects, refused where it selects none. -/
theorem exec_dec4Step_elim {s : State} {d : Dec4} (hd : s.dec = .v4 d) (sin : Sin4) :
    exec (.dec4Step sin) s = (classify4 s.cfg d.nextDigit sin).elim (.refused .reservedPhase)
      fun c => exec (c.instr sin) s := by
  cases hc : classify4 s.cfg d.nextDigit sin with
  | none => exact exec_dec4Step_reserved hd hc
  | some c => exact exec_dec4Step_class hd hc

/-- Settles O10: the branches of R100, in each of which the step is the class operation named there. -/
theorem dec4StepPerformsExactlyOneClass : Obligations.Dec4StepPerformsExactlyOneClass := by
  unfold Obligations.Dec4StepPerformsExactlyOneClass
  intro s d sin hd
  refine ⟨?_, fun hp => ?_⟩
  · simp only [get_strobes4, get_captures4, get_holds4]
    rw [exec_dec4Step_elim hd, classify4]
    split_ifs <;> rfl
  · obtain ⟨c, hc⟩ := classify4_total s.cfg d.nextDigit sin hp
    exact ⟨_, exec_dec4Step hd hc⟩

/-! ### A word seen twice (R151) -/

/-- A step that sees `MUP` leaves no capturing phase. -/
theorem effect4_phase_of_mup {cfg : Config} (hi : 7 ≤ cfg.idle.toNat) {sin : Sin4} {c : Class4} {d : Dec4}
    (hc : classify4 cfg d.nextDigit sin = some c) (hmup : sin.asserted cfg .mup = true) :
    4 ≤ (effect4 cfg sin c d).nextDigit.toNat := by
  have hs := classify4_some hc
  cases c with
  | idleHold =>
    rw [effect4, hs.1]
    omega
  | frozen =>
    have hs : d.nextDigit = 4 := hs
    simp [effect4, hs]
  | abort => exact (show 4 ≤ 7 by decide).trans hi
  | sync | capture k | hold k => simp [hmup] at hs

/-- A step that does not see `MUP` leaves a number of arrivals. -/
theorem effect4_phase_of_not_mup {cfg : Config} {sin : Sin4} {c : Class4} {d : Dec4}
    (hc : classify4 cfg d.nextDigit sin = some c) (hmup : sin.asserted cfg .mup = false) :
    (effect4 cfg sin c d).nextDigit.toNat ≤ 4 := by
  have hs := classify4_some hc
  cases c with
  | idleHold | abort => simp [hmup] at hs
  | frozen =>
    have hs : d.nextDigit = 4 := hs
    simp [effect4, hs]
  | sync => exact Nat.zero_le 4
  | hold k =>
    rw [effect4, hs.1]
    omega
  | capture k =>
    simp only [effect4, Dec4.capture, BitVec.toNat_ofNat]
    omega

/-- A capture moves the phase, so it never leaves the decoder as it was. -/
theorem capture4_ne {c : Config} {k : Fin 4} {sin : Sin4} {d : Dec4} (hp : d.nextDigit.toNat = k.val) :
    Dec4.capture c k sin d ≠ d := by
  intro he
  have hnext : (BitVec.ofNat 4 (k.val + 1)).toNat = d.nextDigit.toNat := congrArg (·.nextDigit.toNat) he
  rw [BitVec.toNat_ofNat, hp] at hnext
  omega

/-- The same word again has an effect exactly where it captures: SYNC and ABORT find another phase than the one that the
first step left. -/
theorem effect4_repeat {cfg : Config} (hi : 7 ≤ cfg.idle.toNat) {sin : Sin4} {c c' : Class4} {d : Dec4}
    (hc : classify4 cfg d.nextDigit sin = some c) (hc' : classify4 cfg (effect4 cfg sin c d).nextDigit sin = some c') :
    effect4 cfg sin c' (effect4 cfg sin c d) ≠ effect4 cfg sin c d ↔ ∃ k, c' = .capture k := by
  have hs' := classify4_some hc'
  cases c' with
  | idleHold | frozen | hold k => simp [effect4]
  | capture k => exact ⟨fun _ => ⟨k, rfl⟩, fun _ => capture4_ne hs'.1⟩
  | sync =>
    obtain ⟨hidle, hmup⟩ := hs'
    have hphase := effect4_phase_of_not_mup hc hmup
    rw [hidle] at hphase
    omega
  | abort =>
    obtain ⟨hlt, hmup⟩ := hs'
    have hphase := effect4_phase_of_mup hi hc hmup
    omega

/-- R100 selects a capture in the capturing phases without `MUP` and with the expected strobe. -/
theorem classify4_capture_iff {cfg : Config} (hi : 7 ≤ cfg.idle.toNat) {p : BitVec 4} {sin : Sin4} {c : Class4}
    (hc : classify4 cfg p sin = some c) :
    (∃ k, c = .capture k) ↔ ∃ h : p.toNat < 4, sin.asserted cfg .mup = false ∧
      sin.asserted cfg (strobe4 ⟨p.toNat, h⟩) = true := by
  constructor
  · rintro ⟨k, rfl⟩
    obtain ⟨hp, hmup, hstrobe⟩ := classify4_some hc
    exact ⟨by omega, hmup, by simpa only [hp] using hstrobe⟩
  · rintro ⟨hlt, hmup, hstrobe⟩
    exact ⟨_, Option.some.inj (hc.symm.trans (classify4_capture hi ⟨_, hlt⟩ rfl hmup hstrobe))⟩

/-- Settles O15: `effect4_repeat` says that the second step has an effect where it captures, `classify4_capture_iff` where
that is. -/
theorem dec4RepeatedWordLaw : Obligations.Dec4RepeatedWordLaw := by
  unfold Obligations.Dec4RepeatedWordLaw
  intro s t u d' sin hd' hi hfirst hsecond
  obtain ⟨d, c, -, hc, rfl⟩ := exec_dec4Step_next hfirst
  obtain rfl : effect4 s.cfg sin c d = d' := Decoder.v4.inj hd'
  obtain ⟨_, c', he', hc', rfl⟩ := exec_dec4Step_next hsecond
  cases he'
  have hne : ∀ e : Dec4, ({ s with dec := .v4 e } : State) ≠ { s with dec := .v4 (effect4 s.cfg sin c d) } ↔
      e ≠ effect4 s.cfg sin c d := fun e => by simp
  exact (hne _).trans ((effect4_repeat hi hc hc').trans (classify4_capture_iff hi hc'))

/-! ### A sweep of four digits (R149, R151) -/

/-- The decoder after the four arrivals of a sweep from the first phase. -/
def swept4 (c : Config) (w : Fin 4 → Sin4) : Dec4 :=
  (List.finRange 4).foldl (fun d k => Dec4.capture c k (w k) d) ⟨0, 0, 0⟩

/-- The steps of a sweep are its four captures. -/
theorem runOps_sweep4 {s : State} {w : Fin 4 → Sin4} (hi : 7 ≤ s.cfg.idle.toNat) (hd : s.dec = .v4 ⟨0, 0, 0⟩)
    (hw : ∀ k, (w k).asserted s.cfg .mup = false ∧ (w k).asserted s.cfg (strobe4 k) = true) :
    runOps [.dec4Step (w 0), .dec4Step (w 1), .dec4Step (w 2), .dec4Step (w 3)] s =
      .next { s with dec := .v4 (swept4 s.cfg w) } := by
  have hstep (k : Fin 4) (d : Dec4) (hp : d.nextDigit.toNat = k.val) :
      exec (.dec4Step (w k)) { s with dec := .v4 d } = .next { s with dec := .v4 (Dec4.capture s.cfg k (w k) d) } :=
    exec_dec4Step (s := { s with dec := .v4 d }) rfl (classify4_capture hi k hp (hw k).1 (hw k).2)
  have hs : s = { s with dec := .v4 ⟨0, 0, 0⟩ } := by rw [← hd]
  rw [hs, runOps_cons (hstep 0 _ ?_), runOps_cons (hstep 1 _ ?_), runOps_cons (hstep 2 _ ?_),
    runOps_cons (hstep 3 _ ?_)] <;> rfl

/-- After a run of captures the nibble of each arrival in it is that arrival's digit, every other one as before: no two
arrivals share a place (R149). -/
theorem captures_nibble4 {c : Config} (hw : 16 ≤ c.wReading4) (w : Fin 4 → Sin4) (ks : List (Fin 4)) (d : Dec4)
    (j : Fin 4) :
    nibble (ks.foldl (fun d k => Dec4.capture c k (w k) d) d).reading (fill4 c.numbering4 j) =
      if j ∈ ks then digit4 c (w j) else nibble d.reading (fill4 c.numbering4 j) := by
  induction ks generalizing d with
  | nil => rfl
  | cons k ks ih =>
    have hplace : fill4 c.numbering4 j = fill4 c.numbering4 k ↔ j = k := ⟨fill4_injective, fun h => by rw [h]⟩
    rw [List.foldl_cons, ih, nibble_capture4 hw k (w k) d (fill4_lt _ _)]
    simp only [hplace, List.mem_cons]
    by_cases hmem : j ∈ ks
    · simp [hmem]
    · by_cases hjk : j = k <;> simp [hmem, hjk]

/-- A sweep puts the digit of each arrival at its place. -/
theorem swept4_nibble {c : Config} (hw : 16 ≤ c.wReading4) (w : Fin 4 → Sin4) (j : Fin 4) :
    nibble (swept4 c w).reading (fill4 c.numbering4 j) = digit4 c (w j) := by
  rw [swept4, captures_nibble4 hw, if_pos (List.mem_finRange j)]

/-- Settles O18: the sweep is its four captures, which fill the places of both numberings by `swept4_nibble`. -/
theorem sweep4PlacesNibblesByStrobe : Obligations.Sweep4PlacesNibblesByStrobe := by
  unfold Obligations.Sweep4PlacesNibblesByStrobe
  intro s w hi hwidth hd hw
  simp only [get_strobes4] at hw
  have hplace := swept4_nibble hwidth w
  refine ⟨swept4 s.cfg w, runOps_sweep4 hi hd hw, rfl, rfl, fun hnum => ?_, fun hnum => ?_⟩ <;>
    · rw [hnum] at hplace
      exact ⟨hplace 0, hplace 1, hplace 2, hplace 3⟩

end Sys2Proof.Proofs

/-! The transmitter (42_transmitter.md): its four operations, one frame, a whole transmission, and who drives the line. -/

namespace Sys2Proof.Proofs
open Sys2Proof.Machine

/-! ### The operations one by one (R161 to R164) -/

/-- The state after `TX.LOAD` of a character that is no terminator (R162). -/
def loaded (s : State) (c : Byte) : State := { s with tx := { s.tx with sr := frameLoad c, cnt := 9 } }

theorem exec_txLoad_char {s : State} {c : Byte} (hi : s.tx.idx.toNat < s.txbufLen)
    (hc : s.txbuf.read s.tx.idx.toNat = some c) (h0 : c ≠ 0) : exec .txLoad s = .next (loaded s c) :=
  (State.txLoadNext_spec hi hc).trans (congrArg Host.Outcome.next (if_neg h0))

theorem exec_txLoad_terminator {s : State} (hi : s.tx.idx.toNat < s.txbufLen)
    (hc : s.txbuf.read s.tx.idx.toNat = some 0) : exec .txLoad s = .next s.txFinished :=
  State.txLoadNext_spec hi hc

/-- `TX.SEND` of a buffer with a terminator by an idle transmitter is a `TX.LOAD` of its first character. -/
theorem exec_txSend_idle {s : State} {n : Nat} (hb : s.tx.busy = false) (hn : n < s.txbufLen)
    (hend : s.txbuf.read n = some 0) : exec .txSend s = exec .txLoad (txStarted s) := by
  have hterm : s.hasTerminator = true := s.hasTerminator_iff.2 ⟨n, hn, hend⟩
  simp only [exec, execTxSend, hb, hterm, if_true]
  rfl

/-- The shift register after a tick, as R163 writes it. -/
theorem tickShift_eq (x : BitVec 9) : (1#1 ++ x.extractLsb' 1 8 : BitVec 9) = (0x100 : BitVec 9) ||| (x >>> 1) := by
  refine BitVec.eq_of_getLsbD_eq fun i hi => ?_
  rw [tickShift_bit x hi, BitVec.getLsbD_or, BitVec.getLsbD_ushiftRight, Nat.add_comm 1 i]
  interval_cases i <;> simp

/-- The state after an enabled `TX.TICK` (R163). -/
def ticked (s : State) : State :=
  { s with
    txd := s.tx.sr.getLsbD 0
    gap := if s.tx.cnt = 1 then s.gapAfterFrame else s.gap
    wire := s.wire ++ [s.tx.sr.getLsbD 0]
    tx := { s.tx with
      sr := 1#1 ++ s.tx.sr.extractLsb' 1 8
      cnt := s.tx.cnt - 1
      idx := if s.tx.cnt = 1 then s.tx.idx + 1 else s.tx.idx } }

theorem exec_txTick {s : State} (hb : s.tx.busy = true) (hc : s.tx.cnt ≠ 0) : exec .txTick s = .next (ticked s) :=
  execTxTick_spec hb hc

/-- With a bit of the frame left a tick is enabled, and it takes that bit off. -/
theorem ticked_cnt {n : Nat} {s : State} (h : n + 1 ≤ s.tx.cnt.toNat) :
    s.tx.cnt ≠ 0 ∧ (ticked s).tx.cnt.toNat + 1 = s.tx.cnt.toNat := by
  have hc : s.tx.cnt ≠ 0 := fun h0 => by simp [h0] at h
  refine ⟨hc, ?_⟩
  show (s.tx.cnt - 1).toNat + 1 = s.tx.cnt.toNat
  bv_omega

/-- Settles O28: the first `TX.LOAD` of the started transmitter, on the terminator and on a character. -/
theorem txSendStartsTheFirstFrame : Obligations.TxSendStartsTheFirstFrame := by
  unfold Obligations.TxSendStartsTheFirstFrame
  intro s c n hb hn hend hc
  have hi : (txStarted s).tx.idx.toNat < (txStarted s).txbufLen := Nat.zero_lt_of_lt hn
  rw [exec_txSend_idle hb hn hend]
  split
  next h0 =>
    subst h0
    exact exec_txLoad_terminator hi hc
  next h0 => rw [exec_txLoad_char hi hc h0, loaded, frameLoad_eq, txStarted]

/-- Settles O29: by the two guards of `TX.SEND`. -/
theorem txSendRefusals : Obligations.TxSendRefusals := by
  unfold Obligations.TxSendRefusals
  intro s
  refine ⟨fun hb => if_pos hb, fun hb hnone => ?_⟩
  have hterm : s.hasTerminator ≠ true := fun h => by
    obtain ⟨i, hi, hend⟩ := s.hasTerminator_iff.1 h
    exact hnone i hi hend
  simp [exec, execTxSend, hb, hterm]

/-- Settles O30: by where `tx.idx` lies against the buffer's end, and by what the buffer holds there. -/
theorem txLoadFramesNextCharacter : Obligations.TxLoadFramesNextCharacter := by
  unfold Obligations.TxLoadFramesNextCharacter
  intro s
  refine ⟨fun c hi hc => ?_, fun hi => if_pos hi, fun hi => ?_, fun hi hc => ?_⟩
  · split
    next h0 =>
      subst h0
      exact exec_txLoad_terminator hi hc
    next h0 => rw [exec_txLoad_char hi hc h0, loaded, frameLoad_eq]
  · simp [exec, execTxLoad, State.txLoadNext, State.memRead, hi.ne', hi.not_gt]
  · simp [exec, execTxLoad, State.txLoadNext, State.memRead, hi.ne, hi, hc]

/-- Settles O31: the tick as R163 writes it, and its guard. -/
theorem txTickDrivesOneBit : Obligations.TxTickDrivesOneBit := by
  unfold Obligations.TxTickDrivesOneBit
  intro s
  refine ⟨fun hb hc => ?_, fun h => if_neg fun hen => ?_⟩
  · have hlast : s.tx.cnt - 1 = 0 ↔ s.tx.cnt = 1 := by bv_omega
    simp only [exec_txTick hb hc, ticked, tickShift_eq, hb, hlast, State.gapAfterFrame]
  · rcases h with h | h <;> simp [h] at hen

/-- Settles O32: `TX.DONE` is `State.txFinished`. -/
theorem txDoneReleasesTheLine : Obligations.TxDoneReleasesTheLine := by
  unfold Obligations.TxDoneReleasesTheLine
  exact fun _ => rfl

/-! ### One frame (R165) -/

/-- The bits of the load value, from bit 0 up, are the levels of the frame (R90). -/
theorem frameLoad_levels (c : Byte) : (List.range 9).map (frameLoad c).getLsbD = frameLevels c := by
  simp [frameLevels, frameLoad_eq, List.range_succ]

theorem ticked_bit (s : State) {i : Nat} (hi : i < 9) :
    (ticked s).tx.sr.getLsbD i = if i = 8 then true else s.tx.sr.getLsbD (i + 1) :=
  tickShift_bit s.tx.sr hi

/-- A tick drives the lowest level and leaves the others to the ticks after it. -/
theorem ticked_levels (s : State) {n : Nat} (hn : n ≤ 8) :
    (ticked s).wire ++ (List.range n).map (ticked s).tx.sr.getLsbD =
      s.wire ++ (List.range (n + 1)).map s.tx.sr.getLsbD := by
  have hlevels : (List.range n).map (ticked s).tx.sr.getLsbD = (List.range n).map (s.tx.sr.getLsbD ∘ Nat.succ) :=
    List.map_congr_left fun i hi => by
      have := List.mem_range.1 hi
      rw [ticked_bit s (by omega), if_neg (by omega)]
      rfl
  rw [hlevels, List.range_succ_eq_map]
  simp [ticked]

/-- The ticks that are left of a frame drive the bits that are left of it and end on its stop bit: at every tick, the part of
the shift register above those bits is mark. -/
theorem ticked_iterate {n : Nat} (hn : n < 9) {s : State} (hb : s.tx.busy = true) (hc : s.tx.cnt.toNat = n + 1)
    (hmarks : ∀ i, n ≤ i → i < 9 → s.tx.sr.getLsbD i = true) :
    ticked^[n + 1] s = { s with
      tx := ⟨true, 0x1FF, 0, s.tx.idx + 1⟩
      txd := true
      gap := s.gapAfterFrame
      wire := s.wire ++ (List.range (n + 1)).map s.tx.sr.getLsbD } := by
  induction n generalizing s with
  | zero =>
    have h1 : s.tx.cnt = 1 := BitVec.eq_of_toNat_eq hc
    have hsr : s.tx.sr = 0x1FF := BitVec.eq_of_getLsbD_eq fun i hi => by
      rw [hmarks i (Nat.zero_le i) hi, idle_sr_bit hi]
    simp [ticked, h1, hsr, hb]
  | succ n ih =>
    have h1 : s.tx.cnt ≠ 1 := fun h1 => by simp [h1] at hc
    obtain ⟨-, hcnt⟩ := ticked_cnt hc.ge
    have hmarks' : ∀ i, n ≤ i → i < 9 → (ticked s).tx.sr.getLsbD i = true := fun i hni hi => by
      rw [ticked_bit s hi]
      split
      · rfl
      · exact hmarks (i + 1) (by omega) (by omega)
    have hidx : (ticked s).tx.idx = s.tx.idx := if_neg h1
    have hgap : (ticked s).gapAfterFrame = s.gapAfterFrame := by
      rw [State.gapAfterFrame, hidx]
      rfl
    rw [Function.iterate_succ_apply, ih (by omega) (s := ticked s) hb (by omega) hmarks', hidx, hgap,
      ticked_levels s (by omega)]
    rfl

/-- The state after one frame: its levels are on the wire, and the next character is due. -/
def frameSent (s : State) (c : Byte) : State :=
  { s with
    tx := ⟨true, 0x1FF, 0, s.tx.idx + 1⟩
    txd := true
    gap := s.gapAfterFrame
    wire := s.wire ++ frameLevels c }

theorem ticked_loaded {s : State} (hb : s.tx.busy = true) (c : Byte) : ticked^[9] (loaded s c) = frameSent s c := by
  have hmarks : ∀ i, 8 ≤ i → i < 9 → (loaded s c).tx.sr.getLsbD i = true := fun i hi hi9 => by
    obtain rfl : i = 8 := by omega
    exact frameLoad_stop c
  rw [ticked_iterate (n := 8) (by decide) (s := loaded s c) hb rfl hmarks, frameSent, ← frameLoad_levels]
  rfl

/-- Every tick of a frame is enabled (R163). -/
theorem runOps_ticks {n : Nat} {s : State} (hb : s.tx.busy = true) (hn : n ≤ s.tx.cnt.toNat) :
    runOps (List.replicate n .txTick) s = .next (ticked^[n] s) := by
  induction n generalizing s with
  | zero => rfl
  | succ n ih =>
    obtain ⟨hc, hcnt⟩ := ticked_cnt hn
    rw [List.replicate_succ, runOps_cons (exec_txTick hb hc), ih (s := ticked s) hb (by omega),
      Function.iterate_succ_apply]

/-- Settles O33: the load, and the nine ticks of its frame. -/
theorem oneFrameOnTheWire : Obligations.OneFrameOnTheWire := by
  unfold Obligations.OneFrameOnTheWire
  intro s c hb hi hc h0
  rw [runOps_cons (exec_txLoad_char hi hc h0), runOps_ticks (n := 9) (s := loaded s c) hb le_rfl]
  exact congrArg Host.Outcome.next (ticked_loaded hb c)

/-! ### The bit clock on a schedule (R70, R163) -/

/-- The state with the coming turns written in. -/
def onSchedule (s : State) (ts : List Turn) : State := { s with env := { s.env with turns := ts } }

theorem onSchedule_turn (s : State) (u : Turn) (ts : List Turn) : (onSchedule s (u :: ts)).turn = u := rfl

/-- A run goes on from the state that its first step leaves. -/
theorem runSteps_succ {n : Nat} {s t : State} (h : step s = .next t) : runSteps (n + 1) s = runSteps n t := by
  simp only [runSteps, h]

/-- A run goes on from the state that its first part leaves. -/
theorem runSteps_add {m n : Nat} {s t : State} (h : runSteps m s = .next t) :
    runSteps (m + n) s = runSteps n t := by
  induction m generalizing s with
  | zero =>
    cases h
    rw [Nat.zero_add]
  | succ m ih =>
    cases hs : step s with
    | next u =>
      rw [runSteps_succ hs] at h
      rw [Nat.add_right_comm, runSteps_succ hs, ih h]
    | fault r => simp [runSteps, hs] at h
    | refused r => simp [runSteps, hs] at h

/-- `TX.LOAD` does not see the schedule. -/
theorem exec_txLoad_onSchedule {s t : State} (h : exec .txLoad s = .next t) (ts : List Turn) :
    exec .txLoad (onSchedule s ts) = .next (onSchedule t ts) := by
  obtain ⟨c, hi, hc, rfl⟩ := State.txLoadNext_next h
  refine (State.txLoadNext_spec (s := onSchedule s ts) hi hc).trans ?_
  split <;> rfl

/-- After a frame and its gap the clock's turn is a `TX.LOAD`. -/
theorem runSteps_load {s t : State} (hb : s.tx.busy = true) (hc : s.tx.cnt = 0) (hg : s.gap = 0)
    (h : exec .txLoad s = .next t) (ts : List Turn) :
    runSteps 1 (onSchedule s (.bitClock :: ts)) = .next (onSchedule t ts) :=
  runSteps_succ (n := 0)
    ((step_bitClock_load (onSchedule_turn s .bitClock ts) hb hc hg).trans (exec_txLoad_onSchedule h ts))

/-- Within a frame the clock's turns are its ticks. -/
theorem runSteps_ticks {n : Nat} {s : State} (hb : s.tx.busy = true) (hn : n ≤ s.tx.cnt.toNat) (ts : List Turn) :
    runSteps n (onSchedule s (List.replicate n .bitClock ++ ts)) = .next (onSchedule (ticked^[n] s) ts) := by
  induction n generalizing s with
  | zero => rfl
  | succ n ih =>
    obtain ⟨hc, hcnt⟩ := ticked_cnt hn
    have hstep : ∀ ts, step (onSchedule s (.bitClock :: ts)) = .next (onSchedule (ticked s) ts) := fun ts =>
      (step_bitClock_frame (onSchedule_turn s .bitClock ts) hb hc).trans (exec_txTick hb hc)
    rw [List.replicate_succ, List.cons_append, runSteps_succ (hstep _), ih (s := ticked s) hb (by omega),
      Function.iterate_succ_apply]

/-- The state with the gap used up. -/
def gapPassed (s : State) : State := { s with gap := 0 }

/-- Between two characters the clock's turns use up the gap. -/
theorem runSteps_gap {g : Nat} {s : State} (hb : s.tx.busy = true) (hc : s.tx.cnt = 0) (hg : s.gap = g)
    (ts : List Turn) :
    runSteps g (onSchedule s (List.replicate g .bitClock ++ ts)) = .next (onSchedule (gapPassed s) ts) := by
  induction g generalizing s with
  | zero =>
    have hnone : gapPassed s = s := by rw [gapPassed, ← hg]
    rw [hnone]
    rfl
  | succ g ih =>
    have hne : s.gap ≠ 0 := by omega
    have hg' : s.gap - 1 = g := by omega
    have hstep : ∀ ts, step (onSchedule s (.bitClock :: ts)) = .next (onSchedule { s with gap := s.gap - 1 } ts) :=
      fun ts => step_bitClock_gap (onSchedule_turn s .bitClock ts) hb hc hne
    rw [List.replicate_succ, List.cons_append, runSteps_succ (hstep _), ih (s := { s with gap := s.gap - 1 }) hb hc hg']
    rfl

/-! ### A transmission (R166) -/

/-- From index `i` the buffer spells a text with no 0x00 in it, and a terminator after it. -/
def Spells (m : Memory) : Nat → List Byte → Prop
  | i, [] => m.read i = some 0
  | i, c :: cs => m.read i = some c ∧ c ≠ 0 ∧ Spells m (i + 1) cs

theorem spells_of_read {m : Memory} {cs : List Byte} {i : Nat}
    (hchars : ∀ (j : Nat) (h : j < cs.length), m.read (i + j) = some cs[j] ∧ cs[j] ≠ 0)
    (hend : m.read (i + cs.length) = some 0) : Spells m i cs := by
  induction cs generalizing i with
  | nil => exact hend
  | cons c cs ih =>
    obtain ⟨hc, h0⟩ := hchars 0 (Nat.zero_lt_succ _)
    refine ⟨hc, h0, ih (fun j hj => ?_) ?_⟩
    · simpa [Nat.add_assoc, Nat.add_comm 1] using hchars (j + 1) (Nat.succ_lt_succ hj)
    · simpa [Nat.add_assoc, Nat.add_comm 1] using hend

/-- The bit-clock steps of a text of `n` characters after its first load: ten a character, and the gaps between them. -/
def bitTimes (gIdle n : Nat) : Nat := 10 * n + gIdle * (n - 1)

/-- The gap after a frame with `n` further characters to come. -/
def gapBefore (gIdle n : Nat) : Nat := if n = 0 then 0 else gIdle

theorem bitTimes_succ (g n : Nat) : bitTimes g (n + 1) = 9 + (gapBefore g n + (1 + bitTimes g n)) := by
  cases n with
  | zero => simp [bitTimes, gapBefore]
  | succ n =>
    simp only [bitTimes, gapBefore, Nat.add_sub_cancel, Nat.mul_add, if_neg (Nat.succ_ne_zero n)]
    omega

/-- The gap after a frame, by the text that follows it (R8, D13). -/
theorem gapAfterFrame_of_spells {s : State} {cs : List Byte} (h : Spells s.txbuf (s.tx.idx + 1).toNat cs) :
    s.gapAfterFrame = gapBefore s.cfg.gIdle cs.length := by
  cases cs with
  | nil => exact if_pos h
  | cons c cs =>
    obtain ⟨hc, h0, -⟩ := h
    exact if_neg fun hend => h0 (Option.some.inj (hc.symm.trans hend))

/-- The state after a text: its frames are on the wire, and the transmitter is idle. -/
def textSent (s : State) (cs : List Byte) : State :=
  { s with
    tx := ⟨false, 0x1FF, 0, s.tx.idx + BitVec.ofNat 4 cs.length⟩
    txd := true
    gap := 0
    wire := s.wire ++ cs.flatMap frameLevels }

/-- The transmitter has just been started or is between two characters, with no gap left: a `TX.LOAD` is due. -/
structure LoadDue (s : State) : Prop where
  busy : s.tx.busy = true
  sr : s.tx.sr = 0x1FF
  cnt : s.tx.cnt = 0
  gap : s.gap = 0

theorem txFinished_eq_textSent {s : State} (h : LoadDue s) : s.txFinished = textSent s [] := by
  simp [State.txFinished, textSent, h.sr, h.cnt, h.gap]

/-- A text is its first character's frame and the rest. -/
theorem textSent_cons (s : State) (c : Byte) (cs : List Byte) :
    textSent (gapPassed (frameSent s c)) cs = textSent s (c :: cs) := by
  have hidx : s.tx.idx + 1 + BitVec.ofNat 4 cs.length = s.tx.idx + BitVec.ofNat 4 (cs.length + 1) := by
    rw [BitVec.add_assoc, BitVec.ofNat_add, BitVec.add_comm 1]
    rfl
  simp only [textSent, gapPassed, frameSent, hidx, List.length_cons, List.flatMap_cons, List.append_assoc]

/-- A load that is due sends the text from its character on: by induction on the text, each character with its nine ticks, its
gap, and the next load. -/
theorem transmits_from_load {cs : List Byte} {s : State} (hs : LoadDue s) (hlen : s.txbufLen ≤ 16)
    (hfit : s.tx.idx.toNat + cs.length < s.txbufLen) (htext : Spells s.txbuf s.tx.idx.toNat cs) :
    ∃ t, exec .txLoad s = .next t ∧ ∀ rest, runSteps (bitTimes s.cfg.gIdle cs.length)
      (onSchedule t (List.replicate (bitTimes s.cfg.gIdle cs.length) .bitClock ++ rest)) =
        .next (onSchedule (textSent s cs) rest) := by
  induction cs generalizing s with
  | nil =>
    refine ⟨_, exec_txLoad_terminator hfit htext, fun rest => ?_⟩
    rw [txFinished_eq_textSent hs]
    rfl
  | cons c cs ih =>
    obtain ⟨hc, h0, htext⟩ := htext
    simp only [List.length_cons] at hfit
    have hi : s.tx.idx.toNat < s.txbufLen := by omega
    have hidx : (s.tx.idx + 1).toNat = s.tx.idx.toNat + 1 := by bv_omega
    rw [← hidx] at htext
    have hgap : s.gapAfterFrame = gapBefore s.cfg.gIdle cs.length := gapAfterFrame_of_spells htext
    have hnext : LoadDue (gapPassed (frameSent s c)) := ⟨rfl, rfl, rfl, rfl⟩
    obtain ⟨t, hload, hrest⟩ := ih hnext hlen (show (s.tx.idx + 1).toNat + _ < s.txbufLen by omega) htext
    refine ⟨_, exec_txLoad_char hi hc h0, fun rest => ?_⟩
    rw [List.length_cons, bitTimes_succ]
    simp only [List.replicate_add, List.append_assoc]
    have hticks := runSteps_ticks (s := loaded s c) hs.busy (n := 9) le_rfl
    rw [ticked_loaded hs.busy] at hticks
    have hgapped := runSteps_gap (s := frameSent s c) rfl rfl hgap
    have hloaded := runSteps_load hnext.busy hnext.cnt hnext.gap hload
    rw [runSteps_add (hticks _), runSteps_add (hgapped _), ← textSent_cons]
    exact (runSteps_add (hloaded _)).trans (hrest rest)

/-- Settles O34: `TX.SEND` is the first load of the started transmitter, and `transmits_from_load` from there. -/
theorem transmissionPutsTheTextOnTheWire : Obligations.TransmissionPutsTheTextOnTheWire := by
  unfold Obligations.TransmissionPutsTheTextOnTheWire
  intro s cs hv hb hlen hchars hend
  have htext : Spells s.txbuf 0 cs := spells_of_read (by simpa using hchars) (by simpa using hend)
  obtain ⟨t, hload, hrun⟩ := transmits_from_load (s := txStarted s) (cs := cs) ⟨rfl, rfl, rfl, rfl⟩ (txbufLen_le hv)
    (show 0 + cs.length < s.txbufLen by omega) htext
  refine ⟨t, (exec_txSend_idle hb hlen hend).trans hload, fun rest => (hrun rest).trans ?_⟩
  simp [onSchedule, textSent, txStarted]

/-! ### Who drives the line (R163, R166) -/

/-- What the transmitter owns: its registers, the line, the gap and the wire trace (R26, R27). -/
def txView (s : State) : Tx × Bool × Nat × List Bool := (s.tx, s.txd, s.gap, s.wire)

/-- The operations that write the transmitter and put nothing on the wire. -/
def framing : List Instr := [.txSend, .txLoad, .txDone, .seqTransmit, .wdtReset]

/-- How an operation can leave what the transmitter owns: as it was, rewritten with the wire trace kept, or with the one level
that a tick drives on the wire. -/
inductive LineWrite (i : Instr) (s t : State) : Prop
  | kept (ht : txView t = txView s)
  | framed (hi : i ∈ framing) (ht : t.wire = s.wire)
  | driven (hi : i = .txTick) (ht : t.wire = s.wire ++ [t.txd])

theorem txView_afterSample (s : State) : txView s.afterSample = txView s := by
  simp [txView]

/-- What each operation does to the transmitter and the line. -/
theorem exec_line {i : Instr} {s t : State} (h : exec i s = .next t) : LineWrite i s t := by
  induction i using instr_cases with
  | class6 k sin =>
    obtain ⟨_, _, _, rfl⟩ := exec_class6_next h
    exact .kept rfl
  | class4 k sin =>
    obtain ⟨_, _, _, rfl⟩ := exec_class4_next h
    exact .kept rfl
  | dec6Step sin =>
    obtain ⟨_, _, _, _, rfl⟩ := exec_dec6Step_next h
    exact .kept rfl
  | dec4Step sin =>
    obtain ⟨_, _, _, _, rfl⟩ := exec_dec4Step_next h
    exact .kept rfl
  | dec6Reset =>
    obtain ⟨_, rfl⟩ := exec_dec6Reset_next h
    exact .kept rfl
  | dec4Reset =>
    obtain ⟨_, rfl⟩ := exec_dec4Reset_next h
    exact .kept rfl
  | fmt6 r p a =>
    obtain ⟨_, _, _, _, rfl⟩ := fmt_frame (.inl ⟨r, p, a, h⟩)
    exact .kept rfl
  | fmt4 r =>
    obtain ⟨_, _, _, _, rfl⟩ := fmt_frame (.inr ⟨r, h⟩)
    exact .kept rfl
  | txSend =>
    obtain ⟨_, _, rfl⟩ := execTxSend_frame h
    exact .framed (by simp [framing]) rfl
  | txLoad =>
    obtain ⟨_, _, rfl, _⟩ := txLoadNext_frame h
    exact .framed (by simp [framing]) rfl
  | txTick =>
    obtain ⟨_, _, rfl⟩ := execTxTick_next h
    exact .driven rfl rfl
  | txDone =>
    cases h
    exact .framed (by simp [framing]) rfl
  | seqArm =>
    obtain ⟨_, _, _, rfl⟩ := execSeqArm_next h
    exact .kept rfl
  | seqSleep =>
    obtain rfl := execSeqSleep_next h
    split <;> exact .kept rfl
  | seqSample | seqAux =>
    cases h
    exact .kept (txView_afterSample s)
  | seqStep =>
    obtain ⟨_, ⟨-, hu⟩ | ⟨-, hu⟩, rfl⟩ := execSeqStep_next h
    · obtain ⟨_, _, _, _, rfl⟩ := exec_dec6Step_next hu
      exact .kept rfl
    · obtain ⟨_, _, _, _, rfl⟩ := exec_dec4Step_next hu
      exact .kept rfl
  | seqFormat =>
    obtain ⟨_, _, _, _, rfl⟩ := execSeqFormat_next h
    exact .kept rfl
  | seqTransmit =>
    obtain ⟨_, hu, rfl⟩ := execSeqTransmit_next h
    obtain ⟨_, _, rfl⟩ := execTxSend_frame hu
    exact .framed (by simp [framing]) rfl
  | irqEdge l =>
    obtain rfl := execIrqEdge_next h
    split <;> exact .kept rfl
  | wdtReset =>
    obtain ⟨_, rfl⟩ := execWdtReset_next h
    exact .framed (by simp [framing]) rfl
  | seqInit | seqWake | seqRearm | irqHandle =>
    cases h
    exact .kept rfl

/-- Settles O35: by how `exec_line` says the operation leaves the line. -/
theorem onlyTheTransmitterDrivesTheLine : Obligations.OnlyTheTransmitterDrivesTheLine := by
  unfold Obligations.OnlyTheTransmitterDrivesTheLine
  intro i s t h
  cases exec_line h with
  | kept ht =>
    simp only [txView, Prod.mk.injEq] at ht
    obtain ⟨htx, htxd, hgap, hwire⟩ := ht
    exact ⟨.inl hwire, fun _ => ⟨htxd, htx, hgap⟩⟩
  | framed hi ht =>
    have hsub : framing ⊆ [.txSend, .txLoad, .txTick, .txDone, .seqTransmit, .wdtReset] := by simp [framing]
    exact ⟨.inl ht, fun hnot => absurd (hsub hi) hnot⟩
  | driven hi ht => exact ⟨.inr ⟨hi, ht⟩, fun hnot => absurd (by simp [hi]) hnot⟩

end Sys2Proof.Proofs

/-! The formatter (43_formatter.md): the two lines as the rules write them, their end and their alphabet, and the digits of a
decoded sweep in display order. -/

namespace Sys2Proof.Proofs
open Sys2Proof.Machine

/-! ### The lines as the rules write them (R181 to R185) -/

/-- The suffix of R184, chosen by `NML` and then by `RNG`. -/
theorem unit6_eq (u : UnitTable) (rng nml : Bool) :
    unit6 u rng nml =
      if nml then (if rng then u.rng1nml1.map char8 else [0x6D, 0x73])
      else (if rng then u.rng1nml0.map char8 else u.rng0nml0.map char8) := by
  cases rng <;> cases nml <;> rfl

/-- `FMT6` of the index 7 stops by name (log 13). -/
theorem exec_fmt6_illegalDp {s : State} {d : Dec6} (hd : s.dec = .v6 d) (r : BitVec 24) (aux : Sin6) :
    exec (.fmt6 r 7 aux) s = .refused .illegalDp := by
  simp [exec, execFmt6, hd]

/-- A decimal index is 0 as a number exactly where it is the word 0. -/
theorem withPoint_toNat (p : BitVec 3) (gs : List Byte) :
    withPoint p.toNat gs = if p = 0 then gs else gs.take (6 - p.toNat) ++ 0x2E :: gs.drop (6 - p.toNat) := by
  have hzero : p.toNat = 0 ↔ p = 0 := BitVec.toNat_eq (y := 0#3) |>.symm
  simp only [withPoint, hzero, List.append_assoc, List.singleton_append]

/-- Settles O36: the buffer reads as `text6`, and that is R181's line. -/
theorem fmt6WritesTheLine : Obligations.Fmt6WritesTheLine := by
  unfold Obligations.Fmt6WritesTheLine
  refine ⟨fun s d r aux hd => exec_fmt6_illegalDp hd r aux, fun s d r p aux hd hv hp => ?_⟩
  obtain ⟨m, hexec, hread, -, -⟩ := execFmt6_spec hd hv r hp aux
  refine ⟨m, hexec, fun i => ?_⟩
  rw [hread, text6, withPoint_toNat, unit6_eq]
  rfl

/-- Settles O37: the buffer reads as `text4`, and that is R185's line; a flag is a bit of the nibble at bit 12 (R87). -/
theorem fmt4WritesTheLine : Obligations.Fmt4WritesTheLine := by
  unfold Obligations.Fmt4WritesTheLine
  intro s d r hd hv
  obtain ⟨m, hexec, hread, -, -⟩ := execFmt4_spec hd hv r
  have hflag (b : Fin 4) : (flagNibble r).getLsbD b.val = r.getLsbD (12 + b.val) := by
    simp [flagNibble]
  refine ⟨m, hexec, fun i => ?_⟩
  rw [hread, text4, overflow4, polarity4, halfDigit4, hflag, hflag, hflag]
  rfl

/-! ### The end and the alphabet of a line (R186, R187) -/

/-- Every character is 7-bit ASCII (R187). -/
def Ascii (cs : List Byte) : Prop := ∀ c ∈ cs, c.getLsbD 7 = false

@[simp] theorem ascii_nil : Ascii [] := List.forall_mem_nil _

@[simp] theorem ascii_cons {c : Byte} {cs : List Byte} : Ascii (c :: cs) ↔ c.getLsbD 7 = false ∧ Ascii cs :=
  List.forall_mem_cons

@[simp] theorem ascii_append {as bs : List Byte} : Ascii (as ++ bs) ↔ Ascii as ∧ Ascii bs :=
  List.forall_mem_append

@[simp] theorem ascii_map_char8 (cs : List Char7) : Ascii (cs.map char8) :=
  List.forall_mem_map.2 fun c _ => char8_ascii c

theorem ascii_lineEnd : Ascii lineEnd := by simp [lineEnd]

theorem indicator_ascii (c : Config) (ovf : Bool) : (indicator c ovf).getLsbD 7 = false := by
  cases ovf with
  | false => simp [indicator]
  | true => exact char8_ascii c.ovfGlyph

theorem ascii_unit6 (u : UnitTable) (rng nml : Bool) : Ascii (unit6 u rng nml) := by
  cases rng <;> cases nml <;> simp [unit6]

theorem ascii_withPoint {gs : List Byte} (h : Ascii gs) (p : Nat) : Ascii (withPoint p gs) := by
  unfold withPoint
  split
  · exact h
  · have htake : Ascii (gs.take (6 - p)) := fun c hc => h c (List.mem_of_mem_take hc)
    have hdrop : Ascii (gs.drop (6 - p)) := fun c hc => h c (List.mem_of_mem_drop hc)
    simp [htake, hdrop]

/-- The V6 line is 7-bit characters and then the line end. -/
theorem text6_ascii_lineEnd (c : Config) (n : Nat) (r : BitVec 24) (p : BitVec 3) (aux : Sin6) :
    ∃ body, text6 c n r p aux = body ++ lineEnd ∧ Ascii body := by
  have hdigits : Ascii (digits6 n r) := by
    simp only [digits6, ascii_cons, glyph_ascii, ascii_nil, and_self]
  have hunit := ascii_unit6 c.unit6 (aux.asserted c .rng) (aux.asserted c .nml)
  refine ⟨_, rfl, ?_⟩
  split <;> simp only [ascii_append, ascii_cons, indicator_ascii, ascii_withPoint hdigits, hunit, ascii_nil, and_self]

/-- The V4 line is 7-bit characters and then the line end. -/
theorem text4_ascii_lineEnd (c : Config) (n : Nat) (r : BitVec 16) :
    ∃ body, text4 c n r = body ++ lineEnd ∧ Ascii body := by
  refine ⟨_, rfl, ?_⟩
  simp only [ascii_cons, indicator_ascii, glyph_ascii, ascii_nil, and_true, true_and]
  constructor <;> split <;> rfl

/-- What a formatter writes is 7-bit characters and then the line end, into a fresh buffer. -/
theorem fmt_writes_line {i : Instr} {s t : State} (hi : (∃ r p aux, i = .fmt6 r p aux) ∨ ∃ r, i = .fmt4 r)
    (h : exec i s = .next t) :
    ∃ body, writeText t.txbufLen 0 (body ++ lineEnd) [] = some t.txbuf ∧ Ascii body := by
  rcases hi with ⟨r, p, aux, rfl⟩ | ⟨r, rfl⟩
  · obtain ⟨-, -, m, hm, rfl⟩ := execFmt6_next h
    obtain ⟨body, htext, hbody⟩ := text6_ascii_lineEnd s.cfg s.env.draws r p aux
    exact ⟨body, htext ▸ hm, hbody⟩
  · obtain ⟨-, m, hm, rfl⟩ := execFmt4_next h
    obtain ⟨body, htext, hbody⟩ := text4_ascii_lineEnd s.cfg s.env.draws r
    exact ⟨body, htext ▸ hm, hbody⟩

/-- Settles O38: the 0x00 stands two past the last character before the line end. -/
theorem formattedLineIsTerminatedAscii : Obligations.FormattedLineIsTerminatedAscii := by
  unfold Obligations.FormattedLineIsTerminatedAscii
  intro i s t _ hi h
  obtain ⟨body, hm, hbody⟩ := fmt_writes_line hi h
  have hread := writeText_read_new hm
  have hend (k : Nat) : t.txbuf.read (body.length + k) = lineEnd[k]? := by
    rw [hread, List.getElem?_append_right (Nat.le_add_right _ _), Nat.add_sub_cancel_left]
  have hlen : (body ++ lineEnd).length = body.length + 3 := List.length_append
  refine ⟨body.length + 2, writeText_bound hm (by simp) _ (mem_of_read (hend 2)), Nat.le_add_left _ _, hend 2, hend 1,
    hend 0, fun j hj => ?_, fun j hj => ?_, writeText_wf hm rfl⟩
  · rw [hread, List.getElem?_eq_none (by omega)]
  · have hj' : j < (body ++ lineEnd).length := by omega
    have hline : Ascii (body ++ lineEnd) := ascii_append.2 ⟨hbody, ascii_lineEnd⟩
    exact ⟨_, (hread j).trans (List.getElem?_eq_getElem hj'), hline _ (List.getElem_mem hj')⟩

/-! ### The digits of a line (R182, R183) -/

/-- The digits keep their order on both sides of the point. -/
theorem withPoint_digit {gs : List Byte} (hgs : gs.length = 6) {p n : Nat} (hn : n < 6) :
    (withPoint p gs)[if p = 0 ∨ n < 6 - p then n else n + 1]? = gs[n]? := by
  unfold withPoint
  by_cases hp : p = 0
  · simp [hp]
  rw [if_neg hp, List.append_assoc]
  have hlen : (gs.take (6 - p)).length = 6 - p := by simp [hgs]
  by_cases hbefore : n < 6 - p
  · rw [if_pos (.inr hbefore), List.getElem?_append_left (by omega), List.getElem?_take_of_lt hbefore]
  · have hafter : n + 1 - (6 - p) = n - (6 - p) + 1 := by omega
    have hsum : 6 - p + (n - (6 - p)) = n := by omega
    rw [if_neg (by omega), List.getElem?_append_right (by omega), hlen, hafter, List.singleton_append,
      List.getElem?_cons_succ, List.getElem?_drop, hsum]

/-- The point stands so that `p` digits follow it. -/
theorem withPoint_point {gs : List Byte} (hgs : gs.length = 6) {p : Nat} (hp : p ≠ 0) :
    (withPoint p gs)[6 - p]? = some 0x2E := by
  have hlen : (gs.take (6 - p)).length = 6 - p := by simp [hgs]
  rw [withPoint, if_neg hp, List.append_assoc, List.getElem?_append_right hlen.le, hlen, Nat.sub_self]
  rfl

/-- Behind the indicator the V6 line holds the digits and the point. -/
theorem text6_behind_indicator (c : Config) (n : Nat) (r : BitVec 24) {p : BitVec 3} (aux : Sin6) {j : Nat} {x : Byte}
    (hx : (withPoint p.toNat (digits6 n r))[j]? = some x) : (text6 c n r p aux)[j + 1]? = some x := by
  obtain ⟨hj, -⟩ := List.getElem?_eq_some_iff.1 hx
  rw [text6, List.singleton_append, List.append_assoc, List.cons_append, List.getElem?_cons_succ,
    List.getElem?_append_left hj, hx]

/-- The digits of a V6 reading in display order, the most significant nibble first. -/
theorem digits6_digit (m : Nat) (r : BitVec 24) (n : Fin 6) (h : (nibble r (5 - n.val)).toNat ≤ 9) :
    (digits6 m r)[n.val]? = some (0x30 + (nibble r (5 - n.val)).setWidth 8) := by
  have hglyph : (digits6 m r)[n.val]? = some (glyph (Config.freeGlyph (m + n.val)) (nibble r (5 - n.val))) := by
    fin_cases n <;> rfl
  rw [hglyph, glyph_digit _ h]

/-- The digits of a V4 reading in display order, behind the indicator, the sign and the half digit. -/
theorem text4_digit (c : Config) (m : Nat) (r : BitVec 16) (j : Fin 3) (h : (nibble r (2 - j.val)).toNat ≤ 9) :
    (text4 c m r)[3 + j.val]? = some (0x30 + (nibble r (2 - j.val)).setWidth 8) := by
  have hglyph : (text4 c m r)[3 + j.val]? = some (glyph (Config.freeGlyph (m + j.val)) (nibble r (2 - j.val))) := by
    fin_cases j <;> rfl
  rw [hglyph, glyph_digit _ h]

/-! ### The result of a sweep (R129, R131, R149) -/

/-- A capture puts its digit in the lowest nibble (R125). -/
theorem nibble_capture6_zero {c : Config} (hw : 24 ≤ c.wReading6) (n : Fin 6) (sin : Sin6) (d : Dec6) :
    nibble (Dec6.capture c n sin d).reading 0 = digit6 c sin := by
  refine BitVec.eq_of_getLsbD_eq fun i hi => ?_
  have hi24 : i < 24 := by omega
  rw [capture6_eq hw]
  simp [nibble, hi, hi24]

/-- A capture moves every other digit up by one nibble. -/
theorem nibble_capture6_succ {c : Config} (hw : 24 ≤ c.wReading6) (n : Fin 6) (sin : Sin6) (d : Dec6) {j : Nat}
    (hj : j < 5) : nibble (Dec6.capture c n sin d).reading (j + 1) = nibble d.reading j := by
  refine BitVec.eq_of_getLsbD_eq fun i hi => ?_
  have hin : 4 * (j + 1) + i < 24 := by omega
  have hnot : ¬4 * (j + 1) + i < 4 := by omega
  have hdown : 4 * (j + 1) + i - 4 = 4 * j + i := by omega
  have hdigit : (digit6 c sin).getLsbD (4 * (j + 1) + i) = false := BitVec.getLsbD_of_ge _ _ (by omega)
  rw [capture6_eq hw]
  simp only [nibble, BitVec.getLsbD_extractLsb', BitVec.getLsbD_or, BitVec.getLsbD_shiftLeft, BitVec.getLsbD_setWidth,
    hi, hin, hnot, hdown, hdigit, decide_true, decide_false, Bool.not_false, Bool.true_and, Bool.and_false, Bool.or_false]

/-- A sweep leaves the digits in display order (R131). -/
theorem swept_nibble {c : Config} (hw : 24 ≤ c.wReading6) (w : Fin 6 → Sin6) (n : Fin 6) :
    nibble (swept c w).reading (5 - n.val) = digit6 c (w n) := by
  have hsix : List.finRange 6 = [0, 1, 2, 3, 4, 5] := by decide
  rw [swept, hsix]
  fin_cases n <;> simp [nibble_capture6_zero hw, nibble_capture6_succ hw]

/-- A run of captures in which `DP` is asserted with digit `7 - k` alone records the index `k` if that digit is
among them. -/
theorem captures_dp {c : Config} {w : Fin 6 → Sin6} {k : Nat} (hk : k ≤ 6)
    (hdp : ∀ n, (w n).asserted c .dp = true ↔ n.val + 1 = 7 - k) (ns : List (Fin 6)) (d : Dec6) :
    (ns.foldl (fun d n => Dec6.capture c n (w n) d) d).dp =
      if ∃ n ∈ ns, n.val + 1 = 7 - k then BitVec.ofNat 3 k else d.dp := by
  induction ns generalizing d with
  | nil => simp
  | cons n ns ih =>
    have hone : (Dec6.capture c n (w n) d).dp = if n.val + 1 = 7 - k then BitVec.ofNat 3 k else d.dp := by
      have hindex : n.val + 1 = 7 - k → decimalIndex n = BitVec.ofNat 3 k := fun h =>
        congrArg (BitVec.ofNat 3) (by omega)
      simp only [Dec6.capture, hdp n]
      split <;> simp_all
    rw [List.foldl_cons, ih, hone]
    simp only [List.exists_mem_cons_iff]
    split <;> split <;> simp_all

/-- A sweep with `DP` asserted at digit `7 - k` alone records the index `k`, and one without `DP` records 0. -/
theorem swept_dp {c : Config} {w : Fin 6 → Sin6} {k : Nat} (hk : k ≤ 6)
    (hdp : ∀ n, (w n).asserted c .dp = true ↔ n.val + 1 = 7 - k) : (swept c w).dp.toNat = k := by
  rw [swept, captures_dp hk hdp]
  split
  next => rw [BitVec.toNat_ofNat]; omega
  next hnone =>
    have hzero : k = 0 := by
      by_contra hpos
      exact hnone ⟨⟨6 - k, by omega⟩, List.mem_finRange _, by simp; omega⟩
    simp [hzero]

/-! ### A sweep, formatted (R187) -/

/-- A run of two parts is the second part from where the first ends. -/
theorem runOps_append {is js : List Instr} {s t : State} (h : runOps is s = .next t) :
    runOps (is ++ js) s = runOps js t := by
  induction is generalizing s with
  | nil =>
    cases h
    rfl
  | cons i is ih =>
    cases hi : exec i s with
    | next u =>
      rw [runOps_cons hi] at h
      rw [List.cons_append, runOps_cons hi, ih h]
    | fault r => simp [runOps, hi] at h
    | refused r => simp [runOps, hi] at h

/-- `SEQ.AUX` reads the decoder's result once (R207). -/
theorem exec_seqAux_result (s : State) :
    ∃ u, exec .seqAux s = .next u ∧ u.dec = s.dec ∧ u.cfg = s.cfg ∧ u.seq.reading = s.dec.reading24 ∧
      u.seq.dp = s.dec.dpIndex :=
  ⟨_, rfl, by simp, by simp, rfl, rfl⟩

/-- `SEQ.AUX` and `SEQ.FORMAT` of the 6-digit family leave the line of the decoder's reading (R207, R208). -/
theorem runOps_auxFormat_v6 {s : State} {d : Dec6} (hd : s.dec = .v6 d) (hv : s.cfg.valid = true) (hp : d.dp.toNat ≤ 6) :
    ∃ (t : State) (n : Nat) (aux : Sin6), runOps [.seqAux, .seqFormat] s = .next t ∧
      ∀ j, t.txbuf.read j = (text6 s.cfg n d.reading d.dp aux)[j]? := by
  obtain ⟨u, hu, hdec, hcfg, hreading, hdp⟩ := exec_seqAux_result s
  simp only [hd, Decoder.reading24, Decoder.dpIndex] at hdec hreading hdp
  obtain ⟨m, hm, hread, -, -⟩ := execFmt6_spec hdec (hcfg ▸ hv) u.seq.reading (hdp ▸ hp) ⟨u.seq.aux⟩
  have hformat : exec .seqFormat u = .next (State.goTo { u.drawn 6 with txbuf := m } .transmit) := by
    simp only [exec, execSeqFormat, hdec, hm, onNext_next]
  refine ⟨_, u.env.draws, ⟨u.seq.aux⟩, by rw [runOps_cons hu, runOps_cons hformat]; rfl, fun j => ?_⟩
  rw [← hcfg, ← hreading, ← hdp]
  exact hread j

/-- The same of the 4-digit family: the loop carries the reading in 24 bits and hands back its 16 (log 21). -/
theorem runOps_auxFormat_v4 {s : State} {d : Dec4} (hd : s.dec = .v4 d) (hv : s.cfg.valid = true) :
    ∃ (t : State) (n : Nat), runOps [.seqAux, .seqFormat] s = .next t ∧
      ∀ j, t.txbuf.read j = (text4 s.cfg n d.reading)[j]? := by
  obtain ⟨u, hu, hdec, hcfg, hreading, -⟩ := exec_seqAux_result s
  simp only [hd, Decoder.reading24] at hdec hreading
  have hread16 : u.seq.reading.setWidth 16 = d.reading := by simp [hreading]
  obtain ⟨m, hm, hread, -, -⟩ := execFmt4_spec hdec (hcfg ▸ hv) (u.seq.reading.setWidth 16)
  have hformat : exec .seqFormat u = .next (State.goTo { u.drawn 3 with txbuf := m } .transmit) := by
    simp only [exec, execSeqFormat, hdec, hm, onNext_next]
  refine ⟨_, u.env.draws, by rw [runOps_cons hu, runOps_cons hformat]; rfl, fun j => ?_⟩
  rw [← hcfg, ← hread16]
  exact hread j

/-- The V6 round trip: the digits of a sweep are printed in display order, `k` of them behind the point. -/
theorem sweep6_formats {s : State} {w : Fin 6 → Sin6} {k : Nat} (hv : s.cfg.valid = true) (hd : s.dec = .v6 ⟨0, 0, 0⟩)
    (hk : k ≤ 6) (hw : ∀ n, (w n).asserted s.cfg .mup = false ∧ (w n).asserted s.cfg (strobe6 n) = true)
    (hdigit : ∀ n, (digit6 s.cfg (w n)).toNat ≤ 9)
    (hpoint : ∀ n, (w n).asserted s.cfg .dp = true ↔ n.val + 1 = 7 - k) :
    ∃ t, runOps ([.dec6Step (w 0), .dec6Step (w 1), .dec6Step (w 2), .dec6Step (w 3), .dec6Step (w 4), .dec6Step (w 5)] ++
        [.seqAux, .seqFormat]) s = .next t ∧
      (∀ n : Fin 6, t.txbuf.read (if k = 0 ∨ n.val < 6 - k then n.val + 1 else n.val + 2) =
        some (0x30 + (digit6 s.cfg (w n)).setWidth 8)) ∧
      (k ≠ 0 → t.txbuf.read (7 - k) = some 0x2E) := by
  have hdp : (swept s.cfg w).dp.toNat = k := swept_dp hk hpoint
  have hnibble := swept_nibble (valid_wReading hv).1 w
  obtain ⟨t, m, aux, hrun, hread⟩ := runOps_auxFormat_v6 (s := { s with dec := .v6 (swept s.cfg w) }) rfl hv (hdp ▸ hk)
  refine ⟨t, (runOps_append (runOps_sweep (valid_idle hv) hd hw)).trans hrun, fun n => ?_, fun hpos => ?_⟩
  · have hplace : (if k = 0 ∨ n.val < 6 - k then n.val + 1 else n.val + 2) =
        (if k = 0 ∨ n.val < 6 - k then n.val else n.val + 1) + 1 := by split <;> rfl
    rw [hread, hplace]
    refine text6_behind_indicator _ _ _ _ ?_
    rw [hdp, withPoint_digit rfl n.isLt, digits6_digit _ _ _ (hnibble n ▸ hdigit n), hnibble]
  · have hplace : 7 - k = 6 - k + 1 := by omega
    rw [hread, hplace]
    refine text6_behind_indicator _ _ _ _ ?_
    rw [hdp, withPoint_point rfl hpos]

/-- The arrivals that show the three digits of a V4 reading, in display order (R149). -/
def displayed4 : Numbering4 → Fin 3 → Fin 4
  | .lsdFirst => ![1, 2, 0]
  | .msdFirst => ![2, 1, 3]

theorem fill4_displayed4 (num : Numbering4) (j : Fin 3) : fill4 num (displayed4 num j) = 2 - j.val := by
  cases num <;> fin_cases j <;> rfl

/-- The V4 round trip: the three digits of a sweep are printed in display order behind the half digit. -/
theorem sweep4_formats {s : State} {w : Fin 4 → Sin4} (hv : s.cfg.valid = true) (hd : s.dec = .v4 ⟨0, 0, 0⟩)
    (hw : ∀ k, (w k).asserted s.cfg .mup = false ∧ (w k).asserted s.cfg (strobe4 k) = true)
    (hdigit : ∀ j, (digit4 s.cfg (w (displayed4 s.cfg.numbering4 j))).toNat ≤ 9) :
    ∃ t, runOps ([.dec4Step (w 0), .dec4Step (w 1), .dec4Step (w 2), .dec4Step (w 3)] ++ [.seqAux, .seqFormat]) s =
        .next t ∧
      ∀ j : Fin 3, t.txbuf.read (3 + j.val) =
        some (0x30 + (digit4 s.cfg (w (displayed4 s.cfg.numbering4 j))).setWidth 8) := by
  have hnibble (j : Fin 3) :
      nibble (swept4 s.cfg w).reading (2 - j.val) = digit4 s.cfg (w (displayed4 s.cfg.numbering4 j)) := by
    rw [← fill4_displayed4 s.cfg.numbering4, swept4_nibble (valid_wReading hv).2]
  obtain ⟨t, m, hrun, hread⟩ := runOps_auxFormat_v4 (s := { s with dec := .v4 (swept4 s.cfg w) }) rfl hv
  refine ⟨t, (runOps_append (runOps_sweep4 (valid_idle hv) hd hw)).trans hrun, fun j => ?_⟩
  rw [hread, text4_digit _ _ _ _ (hnibble j ▸ hdigit j), hnibble]

/-- Settles O56: the round trip of each family. -/
theorem decodedSweepFormatsAsItsDigits : Obligations.DecodedSweepFormatsAsItsDigits := by
  unfold Obligations.DecodedSweepFormatsAsItsDigits
  refine ⟨fun s w k hv hd hk h => ?_, fun s w g hv hd hw hg hdigit => ?_⟩
  · simp only [forall_and] at h
    obtain ⟨hmup, hstrobe, hdigit, hdp⟩ := h
    obtain ⟨t, hrun, hdigits, hpoint⟩ := sweep6_formats hv hd hk (fun n => ⟨hmup n, hstrobe n⟩) hdigit hdp
    exact ⟨t, hrun, fun n => ⟨hdigits n, hpoint⟩⟩
  · have hg' : g = displayed4 s.cfg.numbering4 := by
      rw [hg]
      cases s.cfg.numbering4 <;> rfl
    subst hg'
    simp only [get_strobes4] at hw
    exact sweep4_formats hv hd hw hdigit

end Sys2Proof.Proofs

/-! The sequencer (44_sequencer.md): what each action of the loop does, the moves of `seq.state` (R211), and one wake. -/

namespace Sys2Proof.Proofs
open Sys2Proof.Machine

/-! ### The relevant lines (R202) -/

theorem toNat_ofNat_digits {p : BitVec 4} {n : Fin 6} (hp : p = BitVec.ofNat 4 n.val) : p.toNat = n.val := by
  rw [hp, BitVec.toNat_ofNat]
  omega

/-- Before completion the relevant lines are `MUP` and, in a capturing phase, the expected strobe. -/
theorem relevant_v6 {c : Config} (hi : 7 ≤ c.idle.toNat) {d : Dec6} (h : d.nextDigit = c.idle ∨ d.nextDigit.toNat < 6) :
    ∃ r, relevant c (.v6 d) = some r ∧ lineIn (.v6 .mup) r = true ∧
      ∀ n : Fin 6, d.nextDigit = BitVec.ofNat 4 n.val → lineIn (.v6 (strobe6 n)) r = true := by
  obtain hidle | hlt := h
  · refine ⟨_, if_pos hidle, by simp [lineIn_lineSet], fun n hn => ?_⟩
    have hn : c.idle = BitVec.ofNat 4 n.val := hidle.symm.trans hn
    rw [hn, BitVec.toNat_ofNat] at hi
    omega
  · have hne : d.nextDigit ≠ c.idle := fun he => by rw [he] at hlt; omega
    refine ⟨_, (if_neg hne).trans (dif_pos hlt), by simp [lineIn_lineSet], fun n hn => ?_⟩
    have hval : (⟨d.nextDigit.toNat, hlt⟩ : Fin 6) = n := Fin.ext (toNat_ofNat_digits hn)
    simp [lineIn_lineSet, hval]

theorem relevant_v4 {c : Config} (hi : 7 ≤ c.idle.toNat) {d : Dec4} (h : d.nextDigit = c.idle ∨ d.nextDigit.toNat < 4) :
    ∃ r, relevant c (.v4 d) = some r ∧ lineIn (.v4 .mup) r = true ∧
      ∀ k : Fin 4, d.nextDigit = BitVec.ofNat 4 k.val → lineIn (.v4 (strobe4 k)) r = true := by
  obtain hidle | hlt := h
  · refine ⟨_, if_pos hidle, by simp [lineIn_lineSet], fun k hk => ?_⟩
    have hk : c.idle = BitVec.ofNat 4 k.val := hidle.symm.trans hk
    rw [hk, BitVec.toNat_ofNat] at hi
    omega
  · have hne : d.nextDigit ≠ c.idle := fun he => by rw [he] at hlt; omega
    refine ⟨_, (if_neg hne).trans (dif_pos hlt), by simp [lineIn_lineSet], fun k hk => ?_⟩
    have hval : (⟨d.nextDigit.toNat, hlt⟩ : Fin 4) = k := Fin.ext (toNat_ofNat_arrivals hk)
    simp [lineIn_lineSet, hval]

/-- The reserved phases, and no others, have no relevant lines (R105). -/
theorem relevant_eq_none_iff {c : Config} {d : Decoder} :
    relevant c d = none ↔ d.nextDigit ≠ c.idle ∧ d.capturing = false ∧ d.complete = false := by
  cases d with
  | v6 d =>
    simp only [relevant, Decoder.nextDigit, Decoder.capturing, Decoder.complete]
    split_ifs <;> simp_all
  | v4 d =>
    simp only [relevant, Decoder.nextDigit, Decoder.capturing, Decoder.complete]
    split_ifs <;> simp_all

/-- `SEQ.ARM` arms a set that contains the relevant lines, and writes nothing else. -/
theorem exec_seqArm {s : State} {r : LineSet} (hr : relevant s.cfg s.dec = some r) :
    ∃ armed : LineSet, exec .seqArm s = .next { s with
      ie := armed, seq := { s.seq with pos := .sleep }, env := { s.env with draws := s.env.draws + 1 } } ∧
      ∀ l, lineIn l r = true → lineIn l armed = true := by
  simp only [exec, execSeqArm, hr]
  exact ⟨lineUnion r _, rfl, fun l hl => by rw [lineIn_union, hl, Bool.true_or]⟩

/-- Settles O40: the armed set contains the relevant lines, and there are none in the reserved phases only. -/
theorem seqArmArmsTheRelevantLines : Obligations.SeqArmArmsTheRelevantLines := by
  unfold Obligations.SeqArmArmsTheRelevantLines
  refine ⟨fun s d hd hi hp => ?_, fun s d hd hi hp => ?_, fun s hc => ?_, fun s hc hcap hidle => ?_⟩
  · obtain ⟨r, hr, hmup, hstrobe⟩ := relevant_v6 hi (hp.imp_right Nat.lt_succ_of_le)
    obtain ⟨armed, harm, hsub⟩ := exec_seqArm (hd ▸ hr)
    exact ⟨armed, harm, hsub _ hmup, fun n hn => by rw [get_strobes6]; exact hsub _ (hstrobe n hn)⟩
  · obtain ⟨r, hr, hmup, hstrobe⟩ := relevant_v4 hi (hp.imp_right Nat.lt_succ_of_le)
    obtain ⟨armed, harm, hsub⟩ := exec_seqArm (hd ▸ hr)
    exact ⟨armed, harm, hsub _ hmup, fun k hk => by rw [get_strobes4]; exact hsub _ (hstrobe k hk)⟩
  · obtain ⟨r, hr⟩ := Option.ne_none_iff_exists'.1 fun hnone : relevant s.cfg s.dec = none => by
      simp [(relevant_eq_none_iff.1 hnone).2.2] at hc
    obtain ⟨armed, harm, -⟩ := exec_seqArm hr
    exact ⟨armed, harm⟩
  · have hnone := relevant_eq_none_iff.2 ⟨hidle, hcap, hc⟩
    simp only [exec, execSeqArm, hnone]

/-! ### The other actions of the loop (R201 to R210) -/

/-- Settles O39: a decoder reset is `Decoder.cleared` in both families. -/
theorem seqInitAndRearmResetTheDecoder : Obligations.SeqInitAndRearmResetTheDecoder := by
  unfold Obligations.SeqInitAndRearmResetTheDecoder
  intro s d' hd'
  obtain rfl : d' = s.dec.cleared s.cfg := by
    rw [hd']
    cases s.dec <;> rfl
  exact ⟨rfl, rfl⟩

/-- `SEQ.SLEEP` takes the wake flag (R203). -/
theorem exec_seqSleep_awake {s : State} (ha : s.awake = true) :
    exec .seqSleep s = .next { s with awake := false, seq := { s.seq with asleep := false, pos := .wake } } :=
  if_pos ha

theorem exec_seqSleep_waits {s : State} (ha : s.awake = false) :
    exec .seqSleep s = .next { s with seq := { s.seq with asleep := true } } :=
  if_neg (by simp [ha])

/-- Settles O41: a core that sleeps already is what the waiting action writes. -/
theorem seqSleepWaitsForTheFlag : Obligations.SeqSleepWaitsForTheFlag := by
  unfold Obligations.SeqSleepWaitsForTheFlag
  refine fun s => ⟨exec_seqSleep_awake, exec_seqSleep_waits, fun ha hs => ?_⟩
  rw [exec_seqSleep_waits ha, ← hs]

/-- A scheduled sample is taken off the list, with the reserved bits 0 (R62). -/
theorem sample_scheduled {s : State} {w : Word} {ws : List Word} (h : s.env.samples = w :: ws) :
    s.sampleWord = w &&& s.sinMask ∧ s.afterSample = { s with env := { s.env with samples := ws } } := by
  simp only [State.sampleWord, State.afterSample, h, and_self]

/-- Past the end of the list a free value is drawn. -/
theorem sample_free {s : State} (h : s.env.samples = []) :
    s.sampleWord = Config.freeSample s.env.draws &&& s.sinMask ∧
      s.afterSample = { s with env := { s.env with draws := s.env.draws + 1 } } := by
  simp only [State.sampleWord, State.afterSample, h, and_self]

theorem exec_seqSample (s : State) : exec .seqSample s =
    .next { s.afterSample with seq := { s.seq with pos := .step, sample := s.sampleWord } } := rfl

theorem exec_seqAux (s : State) : exec .seqAux s = .next { s.afterSample with
    seq := { s.seq with
      pos := .format, aux := s.sampleWord, reading := s.dec.reading24, dp := s.dec.dpIndex } } := rfl

theorem exec_seqSample_scheduled {s : State} {w : Word} {ws : List Word} (h : s.env.samples = w :: ws) :
    exec .seqSample s = .next { s with
      seq := { s.seq with pos := .step, sample := w &&& s.sinMask }, env := { s.env with samples := ws } } := by
  obtain ⟨hw, ht⟩ := sample_scheduled h
  rw [exec_seqSample, hw, ht]

/-- Settles O42: the sample of R62, scheduled and free. -/
theorem seqWakeAndSample : Obligations.SeqWakeAndSample := by
  unfold Obligations.SeqWakeAndSample
  refine fun s => ⟨rfl, fun _ _ => exec_seqSample_scheduled, fun hs => ⟨Config.freeSample s.env.draws, ?_⟩⟩
  obtain ⟨hw, ht⟩ := sample_free hs
  rw [exec_seqSample, hw, ht]
  rfl

/-- R200 asks a decoder of the family whether its count of digits is complete. -/
theorem afterStep_v6 {s : State} {d : Dec6} (hd : s.dec = .v6 d) :
    s.afterStep = { s with seq := { s.seq with pos := if s.dec.nextDigit = 6 then .aux else .arm } } := by
  by_cases h : d.nextDigit = 6 <;> simp [State.afterStep, State.goTo, hd, Decoder.complete, Decoder.nextDigit, h]

theorem afterStep_v4 {s : State} {d : Dec4} (hd : s.dec = .v4 d) :
    s.afterStep = { s with seq := { s.seq with pos := if s.dec.nextDigit = 4 then .aux else .arm } } := by
  by_cases h : d.nextDigit = 4 <;> simp [State.afterStep, State.goTo, hd, Decoder.complete, Decoder.nextDigit, h]

/-- Settles O43: `DEC.STEP` completes in an unreserved phase, and R200 asks whether the decoder is complete then. -/
theorem seqStepIsOneDecoderStep : Obligations.SeqStepIsOneDecoderStep := by
  unfold Obligations.SeqStepIsOneDecoderStep
  refine ⟨fun s d hd hp => ?_, fun s d hd hp => ?_⟩
  · obtain ⟨c, hc⟩ := classify6_total s.cfg d.nextDigit ⟨s.seq.sample⟩ hp
    have hstep := exec_dec6Step hd hc
    refine ⟨_, hstep, ?_⟩
    rw [exec_seqStep_v6 hd, hstep]
    exact congrArg Host.Outcome.next (afterStep_v6 rfl)
  · obtain ⟨c, hc⟩ := classify4_total s.cfg d.nextDigit ⟨s.seq.sample⟩ hp
    have hstep := exec_dec4Step hd hc
    refine ⟨_, hstep, ?_⟩
    rw [exec_seqStep_v4 hd, hstep]
    exact congrArg Host.Outcome.next (afterStep_v4 rfl)

/-- Settles O44: the sample of R62, and the result as the loop carries it, in 24 bits in both families (log 21). -/
theorem seqAuxReadsTheResultOnce : Obligations.SeqAuxReadsTheResultOnce := by
  unfold Obligations.SeqAuxReadsTheResultOnce
  intro s r p hrp
  obtain ⟨rfl, rfl⟩ : r = s.dec.reading24 ∧ p = s.dec.dpIndex := by
    cases hd : s.dec with
    | v6 d => simpa only [hd, Decoder.reading24, Decoder.dpIndex] using hrp
    | v4 d =>
      rw [hd] at hrp
      refine ⟨BitVec.eq_of_toNat_eq ?_, hrp.2⟩
      rw [hrp.1, Decoder.reading24, BitVec.toNat_setWidth_of_le (by decide)]
  refine ⟨fun w ws hs => ?_, fun hs => ⟨Config.freeSample s.env.draws, ?_⟩⟩
  · obtain ⟨hw, ht⟩ := sample_scheduled hs
    rw [exec_seqAux, hw, ht]
    rfl
  · obtain ⟨hw, ht⟩ := sample_free hs
    rw [exec_seqAux, hw, ht]
    rfl

/-- Settles O45: where the formatters complete, and `TX.SEND` of a terminated text; none of them moves the loop. -/
theorem seqFormatAndTransmit : Obligations.SeqFormatAndTransmit := by
  unfold Obligations.SeqFormatAndTransmit
  refine ⟨fun s d hd hv hp => ?_, fun s d hd hv => ?_, fun s hb htext => ?_⟩
  · obtain ⟨m, hm, -⟩ := execFmt6_spec hd hv s.seq.reading hp ⟨s.seq.aux⟩
    refine ⟨_, hm, ?_⟩
    simp only [exec, execSeqFormat, hd, hm, onNext_next]
    rfl
  · obtain ⟨m, hm, -⟩ := execFmt4_spec hd hv (s.seq.reading.setWidth 16)
    refine ⟨_, hm, ?_⟩
    simp only [exec, execSeqFormat, hd, hm, onNext_next]
    rfl
  · obtain ⟨hlt, c, hc, -⟩ := textFrom_head htext
    have hsend := (execTxSend_spec hb htext).trans (State.txLoadNext_spec (s := txStarted s) hlt hc)
    refine ⟨_, hsend, ?_⟩
    simp only [exec, execSeqTransmit, hsend, onNext_next]
    split <;> rfl

/-! ### The sequencer state as a view of the phase (R29, R211) -/

/-- `N`, the digits of a complete reading of a family (R23). -/
def digitCount : Variant → Nat
  | .v6 => 6
  | .v4 => 4

theorem digitCount_le (v : Variant) : digitCount v ≤ 6 := by cases v <;> decide

theorem capturing_eq (s : State) : s.dec.capturing = decide (s.dec.nextDigit.toNat < digitCount s.variant) := by
  unfold State.variant
  cases s.dec <;> rfl

theorem complete_iff (s : State) : s.dec.complete = true ↔ s.dec.nextDigit.toNat = digitCount s.variant := by
  unfold State.variant
  cases s.dec <;> simp [Decoder.complete, Decoder.nextDigit, digitCount, ← BitVec.toNat_inj]

theorem seqState_capturing {s : State} (hi : 7 ≤ s.cfg.idle.toNat) (h : s.dec.capturing = true) :
    s.seqState = some .capturing := by
  have hne : s.dec.nextDigit ≠ s.cfg.idle := fun he => by
    have hlt : s.cfg.idle.toNat < digitCount s.variant := by simpa [capturing_eq, he] using h
    have := digitCount_le s.variant
    omega
  rw [State.seqState, if_neg hne, if_pos h]

theorem seqState_complete {s : State} (hi : 7 ≤ s.cfg.idle.toNat) (h : s.dec.complete = true) :
    s.seqState = some .fmtTx := by
  rw [complete_iff] at h
  have hne : s.dec.nextDigit ≠ s.cfg.idle := fun he => by
    have := digitCount_le s.variant
    rw [he] at h
    omega
  rw [State.seqState, if_neg hne, if_neg (by simp [capturing_eq, h]), if_pos ((complete_iff s).2 h)]

/-- The sequencer state depends on the family, `IDLE` and the phase only. -/
theorem seqState_congr {s t : State} (hc : t.cfg = s.cfg) (hv : t.variant = s.variant)
    (hp : t.dec.nextDigit = s.dec.nextDigit) : t.seqState = s.seqState := by
  simp only [State.seqState, capturing_eq, complete_iff, hc, hv, hp]

theorem seqState_of_dec {s t : State} (hc : t.cfg = s.cfg) (hd : t.dec = s.dec) : t.seqState = s.seqState :=
  seqState_congr hc (by simp only [State.variant, hd]) (by rw [hd])

/-- A state of the same family whose phase is one digit further is capturing, or complete. -/
theorem seqState_next_digit {s t : State} (hi : 7 ≤ t.cfg.idle.toNat) (hv : t.variant = s.variant)
    (hs : s.dec.capturing = true) (hp : t.dec.nextDigit.toNat = s.dec.nextDigit.toNat + 1) :
    t.seqState = some .capturing ∨ t.seqState = some .fmtTx := by
  have hlt : s.dec.nextDigit.toNat < digitCount s.variant := by simpa [capturing_eq] using hs
  obtain heq | hlt := Nat.eq_or_lt_of_le hlt
  · exact .inr (seqState_complete hi ((complete_iff t).2 (by rw [hp, hv, ← heq])))
  · exact .inl (seqState_capturing hi (by simpa [capturing_eq, hp, hv] using hlt))

/-! ### The moves of `seq.state` (R211) -/

theorem seqState_cleared {s : State} {d : Decoder} (h : s.dec = d.cleared s.cfg) : s.seqState = some .armedIdle :=
  seqState_idle (by rw [h, Decoder.cleared_nextDigit])

/-- `SEQ.STEP` moves the sequencer state by the moves of the phase (R129). -/
theorem seqState_seqStep {s t : State} (hi : 7 ≤ s.cfg.idle.toNat) (h : exec .seqStep s = .next t) :
    t.seqState = s.seqState ∨
    (s.seqState = some .armedIdle ∧ t.seqState = some .capturing) ∨
    (s.seqState = some .capturing ∧ t.seqState = some .fmtTx) ∨
    (s.seqState = some .capturing ∧ t.seqState = some .armedIdle) := by
  obtain ⟨hc, hv⟩ := configurationIsNeverWritten .seqStep s t h
  have hi' : 7 ≤ t.cfg.idle.toNat := hc ▸ hi
  obtain hsame | ⟨hidle, hzero⟩ | ⟨hcap, hnext⟩ | ⟨hcap, hidle⟩ | ⟨hreset, -⟩ :=
    nextDigitMovesOnlyByTheRules .seqStep s t h
  · exact .inl (seqState_congr hc hv hsame)
  · have hcap : t.dec.capturing = true := by
      rw [capturing_eq, hzero]
      cases t.variant <;> rfl
    exact .inr (.inl ⟨seqState_idle hidle, seqState_capturing hi' hcap⟩)
  · have hs := seqState_capturing hi hcap
    obtain ht | ht := seqState_next_digit hi' hv hcap hnext
    · exact .inl (ht.trans hs.symm)
    · exact .inr (.inr (.inl ⟨hs, ht⟩))
  · exact .inr (.inr (.inr ⟨seqState_capturing hi hcap, seqState_idle (hidle.trans (by rw [hc]))⟩))
  · simp at hreset

/-- Of the actions of the loop only `SEQ.INIT`, `SEQ.STEP` and `SEQ.REARM` write the decoder. -/
theorem seqOp_keeps_dec {p : SeqPos} {s t : State} (hp : p ∉ [.init, .step, .rearm]) (h : exec p.op s = .next t) :
    t.dec = s.dec := by
  cases p with
  | init | step | rearm => simp at hp
  | arm =>
    obtain ⟨r, x, -, rfl⟩ := execSeqArm_next h
    rfl
  | sleep =>
    obtain rfl := execSeqSleep_next h
    split <;> rfl
  | wake =>
    cases h
    rfl
  | sample | aux =>
    cases h
    exact s.afterSample_dec
  | format =>
    obtain ⟨m, n, text, -, rfl⟩ := execSeqFormat_next h
    rfl
  | transmit =>
    obtain ⟨u, hu, rfl⟩ := execSeqTransmit_next h
    obtain ⟨x, b, rfl⟩ := execTxSend_frame hu
    rfl

/-- The moves of the main thread's action: those of `SEQ.STEP`, and `SEQ.REARM` from a complete reading. -/
theorem seqState_seqOp {s t : State} (hinv : s.Inv) (h : exec s.seq.pos.op s = .next t) :
    t.seqState = s.seqState ∨
    (s.seq.pos = .step ∧
      ((s.seqState = some .armedIdle ∧ t.seqState = some .capturing) ∨
       (s.seqState = some .capturing ∧ t.seqState = some .fmtTx) ∨
       (s.seqState = some .capturing ∧ t.seqState = some .armedIdle))) ∨
    (s.seq.pos = .rearm ∧ s.seqState = some .fmtTx ∧ t.seqState = some .armedIdle) := by
  have hi := valid_idle hinv.cfgValid
  cases hp : s.seq.pos with
  | init =>
    rw [hp] at h
    cases h
    exact .inl ((seqState_cleared rfl).trans (seqState_idle (hinv.initDec hp)).symm)
  | step =>
    rw [hp] at h
    exact (seqState_seqStep hi h).imp_right fun hmove => .inl ⟨rfl, hmove⟩
  | rearm =>
    have hcomplete : s.dec.complete = true := by rw [hinv.completeIff, hp]; rfl
    rw [hp] at h
    cases h
    exact .inr (.inr ⟨rfl, seqState_complete hi hcomplete, seqState_cleared rfl⟩)
  | arm | sleep | wake | sample | aux | format | transmit =>
    exact .inl (seqState_of_dec (exec_cfg h) (seqOp_keeps_dec (by simp [hp]) h))

theorem step_bitClock_keeps_dec {s t : State} (ht : s.turn = .bitClock) (h : step s = .next t) : t.dec = s.dec := by
  cases hb : s.tx.busy with
  | false =>
    cases (step_bitClock_idle ht hb).symm.trans h
    exact s.afterTurn_dec
  | true =>
    by_cases hc : s.tx.cnt = 0
    · by_cases hg : s.gap = 0
      · obtain ⟨x, b, rfl, -⟩ := txLoadNext_frame ((step_bitClock_load ht hb hc hg).symm.trans h)
        exact s.afterTurn_dec
      · cases (step_bitClock_gap ht hb hc hg).symm.trans h
        exact s.afterTurn_dec
    · obtain ⟨-, -, rfl⟩ := execTxTick_next ((step_bitClock_frame ht hb hc).symm.trans h)
      exact s.afterTurn_dec

/-- The main thread and the watchdog are the only agents that write the decoder (R70). -/
theorem step_keeps_dec {s t : State} (h : step s = .next t) (hmain : s.turn ≠ .main) (hwdt : s.turn ≠ .watchdog) :
    t.dec = s.dec := by
  cases ht : s.turn with
  | main => exact absurd ht hmain
  | watchdog => exact absurd ht hwdt
  | bitClock => exact step_bitClock_keeps_dec ht h
  | edge l =>
    rw [step_edge ht] at h
    obtain rfl := execIrqEdge_next h
    split <;> exact s.afterTurn_dec
  | irq =>
    rw [step_irq ht] at h
    split at h <;> cases h <;> exact s.afterTurn_dec

/-- No step writes the configuration (R72). -/
theorem step_cfg {s t : State} (h : step s = .next t) : t.cfg = s.cfg := by
  cases hop : s.afterTurn.op s.turn with
  | some i => exact (exec_cfg ((step_of_op hop).symm.trans h)).trans s.afterTurn_cfg
  | none =>
    cases (step_of_op_none hop).symm.trans h
    simp

/-- The watchdog moves to `ARMED_IDLE` from where R233 enables it. -/
theorem seqState_wdtReset {s t : State} (h : exec .wdtReset s = .next t) :
    t.seqState = some .armedIdle ∧
      (s.seqState = some .armedIdle ∨ s.seqState = some .capturing ∨
        (s.seqState = some .fmtTx ∧ s.cfg.wdtInTx = true)) := by
  obtain ⟨he, rfl⟩ := execWdtReset_next h
  refine ⟨seqState_cleared (reset_variant s), ?_⟩
  simp only [State.wdtEnabled, Bool.and_eq_true] at he
  cases hs : s.seqState with
  | none => simp [hs] at he
  | some q =>
    cases q with
    | armedIdle => exact .inl rfl
    | capturing => exact .inr (.inl rfl)
    | fmtTx => exact .inr (.inr ⟨rfl, by simpa [hs] using he.2⟩)

/-- Settles O53: by the agent that moves; one that does not write the decoder does not move `seq.state`. -/
theorem sequencerStateMovesOnlyByTheRules : Obligations.SequencerStateMovesOnlyByTheRules := by
  unfold Obligations.SequencerStateMovesOnlyByTheRules
  intro s t hinv h
  cases ht : s.turn with
  | edge | irq | bitClock =>
    exact .inl (seqState_of_dec (step_cfg h) (step_keeps_dec h (by simp [ht]) (by simp [ht])))
  | watchdog =>
    rw [step_watchdog ht] at h
    split at h
    · obtain ⟨hidle, hs⟩ := seqState_wdtReset h
      rw [State.afterTurn_seqState, State.afterTurn_cfg] at hs
      obtain hs | hs | ⟨hs, hw⟩ := hs
      · exact .inl (hidle.trans hs.symm)
      · exact .inr (.inr (.inr (.inl ⟨hs, hidle, .inr rfl⟩)))
      · exact .inr (.inr (.inr (.inr ⟨hs, hidle, .inr ⟨rfl, hw⟩⟩)))
    · cases h
      exact .inl s.afterTurn_seqState
  | main =>
    cases hb : s.tx.busy with
    | true =>
      cases (step_main_busy ht hb).symm.trans h
      exact .inl s.afterTurn_seqState
    | false =>
      rw [step_main ht hb, ← State.afterTurn_seq] at h
      have hmove := seqState_seqOp (inv_afterTurn hinv) h
      rw [State.afterTurn_seqState, State.afterTurn_seq] at hmove
      obtain hsame | ⟨hp, ⟨hs, ht⟩ | ⟨hs, ht⟩ | ⟨hs, ht⟩⟩ | ⟨hp, hs, ht⟩ := hmove
      · exact .inl hsame
      · exact .inr (.inl ⟨hs, ht, hp⟩)
      · exact .inr (.inr (.inl ⟨hs, ht, hp⟩))
      · exact .inr (.inr (.inr (.inl ⟨hs, ht, .inl hp⟩)))
      · exact .inr (.inr (.inr (.inr ⟨hs, ht, .inl hp⟩)))

/-! ### One wake (R202 to R206, R226, R229) -/

/-- With the transmitter idle a scheduled turn of the main thread is its action. -/
theorem step_onSchedule_main {s : State} (hb : s.tx.busy = false) (ts : List Turn) :
    step (onSchedule s (.main :: ts)) = exec s.seq.pos.op (onSchedule s ts) :=
  step_main rfl hb

/-- The state that `SEQ.ARM` leaves, with a set of lines armed. -/
def lineArmed (s : State) (armed : LineSet) : State :=
  { s with ie := armed, seq := { s.seq with pos := .sleep }, env := { s.env with draws := s.env.draws + 1 } }

/-- The main thread arms every relevant line (R202). -/
theorem runSteps_arm {s : State} {r : LineSet} (hb : s.tx.busy = false) (hp : s.seq.pos = .arm)
    (hr : relevant s.cfg s.dec = some r) (ts : List Turn) :
    ∃ armed, (∀ l, lineIn l r = true → lineIn l armed = true) ∧
      runSteps 1 (onSchedule s (.main :: ts)) = .next (onSchedule (lineArmed s armed) ts) := by
  obtain ⟨armed, harm, hsub⟩ := exec_seqArm (s := onSchedule s ts) hr
  exact ⟨armed, hsub, runSteps_succ (n := 0) (by rw [step_onSchedule_main hb, hp]; exact harm)⟩

/-- A level change of an armed line makes it pending (R226), so that the handler runs, acknowledges it and wakes the core
(R229). -/
theorem runSteps_edge_irq {s : State} {l : Line} (hl : lineIn l s.ie = true) (ts : List Turn) :
    runSteps 2 (onSchedule s (.edge l :: .irq :: ts)) = .next (onSchedule s.takeInterrupt ts) := by
  have hpending : lineUnion s.ifg (lineSet [l]) ≠ noLines := fun h => by
    have := lineIn_union l s.ifg (lineSet [l])
    simp [h, lineIn_lineSet] at this
  have hedge : step (onSchedule s (.edge l :: .irq :: ts)) =
      .next (onSchedule { s with ifg := lineUnion s.ifg (lineSet [l]) } (.irq :: ts)) :=
    (step_edge rfl).trans (if_pos hl)
  rw [runSteps_succ hedge]
  exact runSteps_succ (n := 0) ((step_irq rfl).trans (if_neg hpending))

/-- The state at `SEQ.WAKE`: the flag is consumed. -/
def woken (s : State) : State := { s with awake := false, seq := { s.seq with asleep := false, pos := .wake } }

/-- The state at `SEQ.STEP` after a wake: the flag is consumed and the sample `w` taken, the samples `ws` still to come. -/
def wakeSampled (s : State) (w : Word) (ws : List Word) : State :=
  { s with
    awake := false
    seq := { s.seq with asleep := false, pos := .step, sample := w &&& s.sinMask }
    env := { s.env with samples := ws } }

/-- A woken core takes the wake flag and one sample (R203 to R205). -/
theorem runSteps_sleep_wake_sample {s : State} {w : Word} {ws : List Word} (hb : s.tx.busy = false)
    (hp : s.seq.pos = .sleep) (ha : s.awake = true) (hs : s.env.samples = w :: ws) (ts : List Turn) :
    runSteps 3 (onSchedule s (.main :: .main :: .main :: ts)) = .next (onSchedule (wakeSampled s w ws) ts) := by
  have hsleep : step (onSchedule s (.main :: .main :: .main :: ts)) =
      .next (onSchedule (woken s) (.main :: .main :: ts)) := by
    rw [step_onSchedule_main hb, hp]
    exact exec_seqSleep_awake ha
  have hwake : step (onSchedule (woken s) (.main :: .main :: ts)) =
      .next (onSchedule ((woken s).goTo .sample) (.main :: ts)) :=
    step_onSchedule_main (s := woken s) hb _
  have hsample : step (onSchedule ((woken s).goTo .sample) (.main :: ts)) = .next (onSchedule (wakeSampled s w ws) ts) :=
    (step_onSchedule_main (s := (woken s).goTo .sample) hb ts).trans (exec_seqSample_scheduled hs)
  rw [runSteps_succ hsleep, runSteps_succ hwake]
  exact runSteps_succ (n := 0) hsample

/-- From `SEQ.ARM` a level change of a relevant line, the handler and the main thread's turns lead to `SEQ.STEP` with one
sample. -/
theorem runSteps_to_seqStep {s : State} {r : LineSet} {l : Line} {w : Word} {ws : List Word} (hb : s.tx.busy = false)
    (hp : s.seq.pos = .arm) (hr : relevant s.cfg s.dec = some r) (hl : lineIn l r = true) (hs : s.env.samples = w :: ws)
    (ts : List Turn) :
    ∃ armed, runSteps 6 (onSchedule s (.main :: .edge l :: .irq :: .main :: .main :: .main :: ts)) =
      .next (onSchedule (wakeSampled (lineArmed s armed).takeInterrupt w ws) ts) := by
  obtain ⟨armed, hsub, harm⟩ := runSteps_arm hb hp hr (.edge l :: .irq :: .main :: .main :: .main :: ts)
  have hwake := runSteps_edge_irq (s := lineArmed s armed) (hsub l hl) (.main :: .main :: .main :: ts)
  have hsample := runSteps_sleep_wake_sample (s := (lineArmed s armed).takeInterrupt) hb rfl rfl hs ts
  exact ⟨armed, (runSteps_add (n := 5) harm).trans ((runSteps_add (n := 3) hwake).trans hsample)⟩

/-- `SEQ.STEP` on the masked sample writes the decoder as the step on the sampled word itself does (R104, R206). -/
theorem exec_seqStep_masked_v6 {s v : State} {d : Dec6} {w : Word} {c : Class6} (hcfg : v.cfg = s.cfg) (hv : v.dec = .v6 d)
    (hw : v.seq.sample = w &&& s.cfg.mask6) (hc : classify6 s.cfg d.nextDigit ⟨w⟩ = some c) :
    exec .seqStep v = .next (State.afterStep { v with dec := .v6 (effect6 s.cfg ⟨w⟩ c d) }) := by
  have hsample : Sin6.mk v.seq.sample = Sin6.clean s.cfg ⟨w⟩ := congrArg Sin6.mk hw
  rw [exec_seqStep_v6 hv, hsample, exec_dec6Step hv (by rw [hcfg, classify6_clean, hc]), hcfg, effect6_clean, onNext_next]

theorem exec_seqStep_masked_v4 {s v : State} {d : Dec4} {w : Word} {c : Class4} (hcfg : v.cfg = s.cfg) (hv : v.dec = .v4 d)
    (hw : v.seq.sample = w &&& s.cfg.mask4) (hc : classify4 s.cfg d.nextDigit ⟨w⟩ = some c) :
    exec .seqStep v = .next (State.afterStep { v with dec := .v4 (effect4 s.cfg ⟨w⟩ c d) }) := by
  have hsample : Sin4.mk v.seq.sample = Sin4.clean s.cfg ⟨w⟩ := congrArg Sin4.mk hw
  rw [exec_seqStep_v4 hv, hsample, exec_dec4Step hv (by rw [hcfg, classify4_clean, hc]), hcfg, effect4_clean, onNext_next]

/-- One wake, in the terms of both families: what the last turn's `SEQ.STEP` makes of the decoder, and what the wake leaves of
the flag, the pending set, the wire and the environment. -/
theorem runSteps_one_wake {s : State} {r : LineSet} {l : Line} {w : Word} {ws : List Word} {ts : List Turn} {e : Decoder}
    (hinv : s.Inv) (hp : s.seq.pos = .arm) (hr : relevant s.cfg s.dec = some r) (hl : lineIn l r = true)
    (hs : s.env.samples = w :: ws)
    (hts : s.env.turns = .main :: .edge l :: .irq :: .main :: .main :: .main :: .main :: ts)
    (hstep : ∀ v : State, v.cfg = s.cfg → v.dec = s.dec → v.seq.sample = w &&& s.sinMask →
      exec .seqStep v = .next (State.afterStep { v with dec := e })) :
    ∃ t, runSteps 7 s = .next t ∧ t.dec = e ∧ t.awake = false ∧ t.ifg = noLines ∧ t.wire = s.wire ∧
      t.env.samples = ws ∧ t.env.turns = ts := by
  have hb : s.tx.busy = false := Bool.eq_false_iff.2 fun hbusy => by simpa [hp] using hinv.busyAt hbusy
  obtain ⟨armed, hsix⟩ := runSteps_to_seqStep hb hp hr hl hs (.main :: ts)
  have hlast := (step_onSchedule_main (s := wakeSampled (lineArmed s armed).takeInterrupt w ws) hb ts).trans
    (hstep _ rfl rfl rfl)
  have hrun := (runSteps_add (n := 1) hsix).trans (runSteps_succ (n := 0) hlast)
  have hsched : onSchedule s s.env.turns = s := rfl
  rw [hts] at hsched
  rw [← hsched]
  exact ⟨_, hrun, rfl, rfl, rfl, rfl, rfl, rfl⟩

/-- At `SEQ.ARM` the decoder is not complete (R211). -/
theorem inv_arm_incomplete {s : State} (h : s.Inv) (hp : s.seq.pos = .arm) : s.dec.complete = false := by
  rw [h.completeIff, hp]
  rfl

/-- Settles O55: `MUP` is relevant in each phase that a decoder can have at `SEQ.ARM`, and each of them selects a class. -/
theorem oneWakeIsOneDecoderStep : Obligations.OneWakeIsOneDecoderStep := by
  unfold Obligations.OneWakeIsOneDecoderStep
  refine ⟨fun s d w ws ts hinv hd hp _ hs hts => ?_, fun s d w ws ts hinv hd hp _ hs hts => ?_⟩
  · have hreach : d.Reachable s.cfg := by simpa [hd, Decoder.Reachable] using hinv.decReachable
    have hphase := Dec6.reachable_phase hreach
    have hne : d.nextDigit ≠ 6 := by simpa [hd, Decoder.complete] using inv_arm_incomplete hinv hp
    obtain ⟨r, hr, hmup, -⟩ := relevant_v6 (valid_idle hinv.cfgValid)
      (hphase.symm.imp_right fun hle => toNat_lt_of_ne (by decide) hle hne)
    obtain ⟨c, hc⟩ := classify6_total s.cfg d.nextDigit ⟨w⟩ hphase
    obtain ⟨t, hrun, hdec, hrest⟩ := runSteps_one_wake hinv hp (hd ▸ hr) hmup hs hts fun v hcfg hv hw =>
      exec_seqStep_masked_v6 hcfg (hv.trans hd) (hw.trans (by rw [State.sinMask, hd])) hc
    exact ⟨t, _, hrun, exec_dec6Step hd hc, hdec, hrest⟩
  · have hreach : d.Reachable s.cfg := by simpa [hd, Decoder.Reachable] using hinv.decReachable
    have hphase := Dec4.reachable_phase hreach
    have hne : d.nextDigit ≠ 4 := by simpa [hd, Decoder.complete] using inv_arm_incomplete hinv hp
    obtain ⟨r, hr, hmup, -⟩ := relevant_v4 (valid_idle hinv.cfgValid)
      (hphase.symm.imp_right fun hle => toNat_lt_of_ne (by decide) hle hne)
    obtain ⟨c, hc⟩ := classify4_total s.cfg d.nextDigit ⟨w⟩ hphase
    obtain ⟨t, hrun, hdec, hrest⟩ := runSteps_one_wake hinv hp (hd ▸ hr) hmup hs hts fun v hcfg hv hw =>
      exec_seqStep_masked_v4 hcfg (hv.trans hd) (hw.trans (by rw [State.sinMask, hd])) hc
    exact ⟨t, _, hrun, exec_dec4Step hd hc, hdec, hrest⟩

end Sys2Proof.Proofs

/-! Exceptions (60_exceptions.md): line-change interrupts, the watchdog, and runs in which no reading completes. -/

namespace Sys2Proof.Proofs
open Sys2Proof.Machine

/-! ### Line-change interrupts (R226, R229) -/

/-- A level change of an armed line adds it to the pending set (R226). -/
theorem exec_irqEdge_armed {s : State} {l : Line} (h : lineIn l s.ie = true) :
    exec (.irqEdge l) s = .next { s with ifg := lineUnion s.ifg (lineSet [l]) } := if_pos h

theorem exec_irqEdge_unarmed {s : State} {l : Line} (h : lineIn l s.ie = false) : exec (.irqEdge l) s = .next s :=
  if_neg (Bool.eq_false_iff.1 h)

/-- Settles O46: the new pending set is the union with the line alone. -/
theorem irqEdgeSetsPendingOfArmedLine : Obligations.IrqEdgeSetsPendingOfArmedLine := by
  unfold Obligations.IrqEdgeSetsPendingOfArmedLine
  intro s l
  refine ⟨fun h => ⟨_, exec_irqEdge_armed h, fun k => ?_⟩, exec_irqEdge_unarmed⟩
  rw [lineIn_union, lineIn_lineSet]
  simp only [List.mem_singleton]

/-- Settles O47: taking the interrupt is all the handler does, and the return restores nothing (R230). -/
theorem irqHandleWritesOnlyItsTwoFlags : Obligations.IrqHandleWritesOnlyItsTwoFlags := by
  unfold Obligations.IrqHandleWritesOnlyItsTwoFlags
  exact fun s => ⟨congrArg Host.Outcome.next s.takeInterrupt.returnFromInterrupt_eq, lineIn_noLines⟩

/-! ### The watchdog (R233, R234) -/

/-- The watchdog's enabling condition in terms of the phase. It needs no constraint on `IDLE`: a phase that is `IDLE` and
complete at once is `ARMED_IDLE`, where the watchdog is enabled whatever `WDT_IN_TX` is. -/
theorem wdtEnabled_iff (s : State) : s.wdtEnabled = true ↔ s.wdtArmed = true ∧
    (s.dec.nextDigit = s.cfg.idle ∨ s.dec.capturing = true ∨ (s.dec.complete = true ∧ s.cfg.wdtInTx = true)) := by
  rw [State.wdtEnabled, Bool.and_eq_true]
  refine and_congr_right fun _ => ?_
  by_cases hidle : s.dec.nextDigit = s.cfg.idle
  · simp [seqState_idle hidle, hidle]
  · cases hcap : s.dec.capturing with
    | true => simp [State.seqState, hidle, hcap]
    | false => cases hc : s.dec.complete <;> simp [State.seqState, hidle, hcap, hc]

/-- In `FMT_TX` the watchdog is enabled only with `WDT_IN_TX`. -/
theorem wdtEnabled_complete {s : State} (hi : 7 ≤ s.cfg.idle.toNat) (hc : s.dec.complete = true) :
    s.wdtEnabled = (s.wdtArmed && s.cfg.wdtInTx) := by
  rw [State.wdtEnabled, seqState_complete hi hc]

theorem exec_wdtReset_enabled {s : State} (h : s.wdtEnabled = true) : exec .wdtReset s = .next s.fullReset := if_pos h

theorem exec_wdtReset_notEnabled {s : State} (h : s.wdtEnabled = false) : exec .wdtReset s = .refused .notEnabled :=
  if_neg (Bool.eq_false_iff.1 h)

/-- Settles O48: the watchdog is enabled there, and what it does is the full reset of the decoder's family. -/
theorem watchdogResetsTheDevice : Obligations.WatchdogResetsTheDevice := by
  unfold Obligations.WatchdogResetsTheDevice
  intro s harmed hphase
  rw [exec_wdtReset_enabled ((wdtEnabled_iff s).2 ⟨harmed, hphase⟩), State.fullReset, State.resetOf, reset_variant]
  rfl

/-- Settles O49: the watchdog is not enabled there, so that its turn takes itself off the schedule and nothing more. -/
theorem watchdogIsNotEnabledInTransmission : Obligations.WatchdogIsNotEnabledInTransmission := by
  unfold Obligations.WatchdogIsNotEnabledInTransmission
  intro s ts h
  have hnot : s.wdtEnabled = false := by
    obtain harmed | ⟨hi, hc, hw⟩ := h
    · rw [State.wdtEnabled, harmed, Bool.false_and]
    · rw [wdtEnabled_complete hi hc, hw, Bool.and_false]
  refine ⟨exec_wdtReset_notEnabled hnot, fun hts => ?_⟩
  obtain ⟨hturn, hafter⟩ := turn_scheduled hts
  rw [step_watchdog hturn, if_neg (Bool.eq_false_iff.1 hnot), hafter]

/-! ### Runs without a complete reading (R222, R223) -/

/-- Before a reading is complete no transmission runs (R209, R211). -/
theorem inv_incomplete_idle {s : State} (h : s.Inv) (hc : s.dec.complete = false) : s.tx.busy = false :=
  Bool.eq_false_iff.2 fun hbusy => by
    have hcomplete : s.dec.complete = true := by
      rw [h.completeIff, h.busyAt hbusy]
      rfl
    exact Bool.eq_false_iff.1 hc hcomplete

/-- With the transmitter idle no agent's turn is a `TX.TICK` (R163). -/
theorem op_ne_txTick {s : State} (hb : s.tx.busy = false) (u : Turn) : s.op u ≠ some .txTick := by
  cases u with
  | main => cases hp : s.seq.pos <;> simp [State.op, hb, hp, SeqPos.op]
  | bitClock => simp [State.op, hb]
  | edge | irq | watchdog => simp [State.op]

/-- No operation but `TX.TICK` puts a level on the wire (R163, R166). -/
theorem exec_wire {i : Instr} {s t : State} (hi : i ≠ .txTick) (h : exec i s = .next t) : t.wire = s.wire :=
  (onlyTheTransmitterDrivesTheLine i s t h).1.resolve_right fun hdriven => hi hdriven.1

/-- With the transmitter idle a step puts nothing on the wire. -/
theorem step_wire_of_idle {s t : State} (hb : s.tx.busy = false) (h : step s = .next t) : t.wire = s.wire := by
  cases hop : s.afterTurn.op s.turn with
  | some i =>
    have hi : i ≠ .txTick := fun he => op_ne_txTick (s.afterTurn_tx ▸ hb) s.turn (he ▸ hop)
    exact (exec_wire hi ((step_of_op hop).symm.trans h)).trans s.afterTurn_wire
  | none =>
    cases (step_of_op_none hop).symm.trans h
    rw [State.passTurn_wire, State.afterTurn_wire]

/-- Settles O54: by induction on the run; each step keeps the invariant, which idles the transmitter wherever the reading
is not complete. -/
theorem incompleteReadingSendsNothing : Obligations.IncompleteReadingSendsNothing := by
  unfold Obligations.IncompleteReadingSendsNothing
  intro n
  induction n with
  | zero =>
    intro s t _ h _
    cases h
    rfl
  | succ n ih =>
    intro s t hinv h hincomplete
    obtain ⟨u, hu, hinv'⟩ := everyStepRunsAndKeepsTheInvariant s hinv
    have hbusy : s.tx.busy = false := inv_incomplete_idle hinv (hincomplete 0 n.succ_pos s rfl)
    have hrest : t.wire = u.wire := ih u t hinv' ((runSteps_succ hu).symm.trans h) fun k hk v hv =>
      hincomplete (k + 1) (Nat.succ_lt_succ hk) v ((runSteps_succ hu).trans hv)
    exact hrest.trans (step_wire_of_idle hbusy hu)

end Sys2Proof.Proofs
